-- ==== Sys2Proof/Word.lean ====
section
/-! DEFINITION. The data types the spec's rules speak of: bits, bytes, nibbles, the command word, the level of the output
line, the statuses, and the values of the host software. -/

namespace Sys2Proof

/-- A byte of the host software, bit 7 most significant (R66). -/
abbrev Byte := BitVec 8

/-- A protocol code of four bits (R67). -/
abbrev Nibble := BitVec 4

/-- The bits of format SB: bit `k` is slot `k` (R62). -/
abbrev SlotImage := BitVec 256

/-- The fixed-width command word of format H: `{slots[255:0], slot_count[8:0], repeat[7:0], op[1:0]}` (R63). -/
abbrev CommandWord := BitVec 275

/-- The two abstract levels of the output line (R10 (f), R27). -/
inductive Level where
  | active
  | inactive
deriving DecidableEq, Repr, Inhabited

/-- What a host operation that can fail returns (R136). -/
inductive Status where
  | ok
  | engineBusy
  | capacityExceeded
  | invalidState
  | invalidArgument
deriving DecidableEq, Repr, Inhabited

/-- The mode of an `ACState` (R80). -/
inductive Mode where
  | cool
  | heat
  | auto
  | fan
deriving DecidableEq, Repr, Inhabited

/-- The caller's logical air-conditioner state (R80): `fan_level` is 0..3 by its type, `temperature` a mathematical integer. -/
structure ACState where
  enabled : Bool
  mode : Mode
  fanLevel : Fin 4
  temperature : Int
deriving DecidableEq, Repr, Inhabited

/-- Format P, three bytes (R67). -/
structure ProtocolPacket where
  p0 : Byte
  p1 : Byte
  p2 : Byte
deriving DecidableEq, Repr, Inhabited

/-- Format F, six bytes (R66). -/
structure RawFrame where
  f0 : Byte
  f1 : Byte
  f2 : Byte
  f3 : Byte
  f4 : Byte
  f5 : Byte
deriving DecidableEq, Repr, Inhabited

/-- The bytes of a frame in index order, the order in which they are sent (R45, R66). -/
def RawFrame.bytes (f : RawFrame) : List Byte := [f.f0, f.f1, f.f2, f.f3, f.f4, f.f5]

/-- The host's `SlotBuffer`: its bits and how many of them, from index 0, are the program (R62); while it is built,
`count` is the next free slot index `n` of R95. -/
structure SlotBuffer where
  bits : SlotImage
  count : Nat
deriving DecidableEq, Repr, Inhabited

end Sys2Proof
end

