-- ==== Sys2Proof/Config.lean ====
section
/-! DEFINITION. The parameters of R9: the values the spec fixes, and the open ones as constants with no body. The parameter
HAS_STOP, which the spec describes for both its values, is a strap held in State (log 5). -/

namespace Sys2Proof.Config

/-- `SLOT_CAPACITY`, bits in the slot buffer (R9, D1). -/
def slotCapacity : Nat := 256

/-- `SUBSLOTS_PER_SLOT`, ticks consumed by one slot (R9, R119). -/
def subslotsPerSlot : Nat := 42

/-- `CYCLES_PER_SLOT`, carrier cycles in one mark slot (R9, R117). -/
def cyclesPerSlot : Nat := 21

/-- `TICKS_PER_CYCLE`, ticks per carrier cycle (R9, C2). -/
def ticksPerCycle : Nat := 2

/-- `MAX_BUILT_SLOTS`, the largest count BUILD can produce (R9, C1). -/
def maxBuiltSlots : Nat := 217

/-- The largest repeat count that fits REPEAT_COUNT (R9, R107 (d)). -/
def maxRepeat : Nat := 255

/-- `DEFAULT_REPEAT`, used by ENCODE_AND_SEND (R9, R130). -/
def defaultRepeat : Nat := 2

/-- `FIXED_REPEAT`, which callers of the base design pass to SEND_FIXED_COMMAND (R9, R131, D22). -/
def fixedRepeat : Nat := 1

/-- `CARRIER_HZ`: open (R9, D4, U11; log 16). -/
opaque carrierHz : Nat

/-- `TICK_HZ = 2 × CARRIER_HZ` (R9, R169). -/
def tickHz : Nat := ticksPerCycle * carrierHz

/-- The ticks of a transmission of `slotCount` slots played `repeats` times (R170). -/
def transmissionTicks (slotCount repeats : Nat) : Nat := subslotsPerSlot * slotCount * repeats

/-- `ACTIVE_LEVEL`: whether ACTIVE is the electrically high level: open (R9, D3, U7; log 17). -/
opaque activeIsHigh : Bool

/-! The protocol tables of R85: open, with the entries the source's one example pins (D18; log 9). -/

/-- `MAGIC`, pinned by the source's example, which it marks illustrative (R85; log 9). -/
def magic : Byte := 0xB2

/-- `STATE_ON`, pinned (R85). -/
def stateOn : Nibble := 0b1111

/-- `OFF_PACKET`: open (R82, R85). -/
opaque offPacket : ProtocolPacket

/-- The entries of `CMD_CODE` that the source does not pin: open (R85). -/
opaque openCmdCode : Mode → Nibble

/-- `CMD_CODE`; the entry of Cool is pinned (R85). -/
def cmdCode : Mode → Nibble
  | .cool => 0b0000
  | m => openCmdCode m

/-- The entries of `FAN_TABLE` that the source does not pin: open (R85). -/
opaque openFanCode : Fin 4 → Nibble

/-- `FAN_TABLE`, indexed by `fan_level`; entry 2 is pinned (R85). -/
def fanTable (level : Fin 4) : Nibble :=
  if level = 2 then 0b0101 else openFanCode level

/-- `FAN_AUTO`: open (R85). -/
opaque fanAuto : Nibble

/-- The entries of `TEMP_TABLE` that the source does not pin: open (R85). -/
opaque openTempCode : Fin 14 → Nibble

/-- `TEMP_TABLE`, indexed by `temperature - 17`; entry 5 is pinned (R85). -/
def tempTable (index : Fin 14) : Nibble :=
  if index = 5 then 0b0111 else openTempCode index

/-- `TEMP_NA`, the nibble of mode Fan: open (R85). -/
opaque tempNa : Nibble

/-- `TEMP_FALLBACK`, the nibble of an out-of-range temperature: open (R85, U6). -/
opaque tempFallback : Nibble

/-- `DEFLECTOR_BYTES`, the three literal bytes of the deflector-move command: open (R92, D18). -/
opaque deflectorBytes : ProtocolPacket

end Sys2Proof.Config
end

