-- ==== Sys2Proof/Syntax.lean ====
section
/-! DEFINITION. The instructions: one constructor for every row of spec/opcode_table.json (R77). -/

namespace Sys2Proof

/-- The rows of the opcode table, with the operands the rules give them. `slot_count` and `repeat` are natural numbers at
the operation level; the operation's own checks reject what the registers cannot hold (R64). -/
inductive Instr where
  /-- MARK, slot symbol 1 (R61, R117). -/
  | mark
  /-- SPACE, slot symbol 0 (R61, R118). -/
  | space
  /-- IS_IDLE (R108). -/
  | isIdle
  /-- ARM(slots, slot_count, repeat) (R105 to R107). -/
  | arm (slots : SlotImage) (slotCount : Nat) (repeats : Nat)
  /-- STOP (R109). -/
  | stop
  /-- TICK, the timer's event (R116). -/
  | tick
  /-- START, the start condition `M8 S8` (R68). -/
  | start
  /-- BIT0, `M S` (R69). -/
  | bit0
  /-- BIT1, `M S3` (R70). -/
  | bit1
  /-- STOPMARK, `M S8` (R71). -/
  | stopmark
  /-- BYTE(b), the eight bit symbols of `b`, most significant first (R72). -/
  | byte (b : Byte)
  /-- ENCODE(st) (R82, R83). -/
  | encode (st : ACState)
  /-- FRAME(p) (R90). -/
  | frame (p : ProtocolPacket)
  /-- BUILD(F) (R95). -/
  | build (f : RawFrame)
  /-- ENCODE_AND_SEND(st) (R130). -/
  | encodeAndSend (st : ACState)
  /-- SEND_FIXED_COMMAND(bytes, repeat) (R131). -/
  | sendFixedCommand (bytes : ProtocolPacket) (repeats : Nat)
deriving DecidableEq, Repr

end Sys2Proof
end

