-- ==== Sys2Proof/WellFormed.lean ====
section
/-! DEFINITION. The checks on an instruction as syntax: the operands of an encoded ARM fit their fields, and which
instructions the HOST agent may issue. -/

namespace Sys2Proof

/-- An instruction's operands fit the fields of its format. Only ARM has numeric fields: `slot_count` has `W_SLOT` = 9 bits
and `repeat` has `W_REPEAT` = 8 bits in the command word (R63, R64). An ARM outside them is still an operation at the
operation level, and is answered by the checks of R107; it has no command word. -/
def Instr.wf : Instr → Bool
  | .arm _ slotCount repeats => decide (slotCount < 2 ^ 9) && decide (repeats < 2 ^ 8)
  | .mark | .space | .isIdle | .stop | .tick | .start | .bit0 | .bit1 | .stopmark | .byte _ => true
  | .encode _ | .frame _ | .build _ | .encodeAndSend _ | .sendFixedCommand _ _ => true

/-- The instructions the HOST agent issues in the foreground (R6, R148): the host operations and the host software. MARK and
SPACE are fetched by TICK alone, and TICK is the timer's event (R116). -/
def Instr.hostIssued : Instr → Bool
  | .mark | .space | .tick => false
  | .isIdle | .arm _ _ _ | .stop | .start | .bit0 | .bit1 | .stopmark | .byte _ => true
  | .encode _ | .frame _ | .build _ | .encodeAndSend _ | .sendFixedCommand _ _ => true

end Sys2Proof
end

