-- ==== Sys2Proof/Decode.lean ====
section
/-! DEFINITION. Encodings (30_encoding.md): the decoders of formats S, H and PS, the slot expansions of the pulse symbols,
the round-trip decoder DecodeSlots, the encoder, and the reading of an opcode-table word. Every decoder is total and
rejects by name. -/

namespace Sys2Proof

/-- The bits of an instruction that has an encoding, by the format it is read in (R60). -/
inductive Encoded where
  /-- Format S: the one bit at a slot index (R61). -/
  | slot (bit : Bool)
  /-- Format H: the command word (R63). -/
  | command (word : CommandWord)
  /-- Format PS: a run of slot symbols in slot-index order (R68 to R72). -/
  | symbol (bits : List Bool)
deriving DecidableEq, Repr

/-- Why a decoder gives no instruction. -/
inductive Reject where
  /-- The host operation code `0b11` (R74 (c)). -/
  | reservedOperation
  /-- Bits that are the expansion of no pulse symbol (R75). -/
  | notAPulseSymbol
deriving DecidableEq, Repr

/-! ### Expansions of the pulse symbols -/

/-- `n` consecutive mark slots, `Mn` (R10 (g)). -/
def marks (n : Nat) : List Bool := List.replicate n true

/-- `n` consecutive space slots, `Sn` (R10 (g)). -/
def spaces (n : Nat) : List Bool := List.replicate n false

/-- START: `M8 S8` (R68). -/
def startSlots : List Bool := marks 8 ++ spaces 8

/-- BIT0: `M S` (R69). -/
def bit0Slots : List Bool := marks 1 ++ spaces 1

/-- BIT1: `M S3` (R70). -/
def bit1Slots : List Bool := marks 1 ++ spaces 3

/-- STOPMARK: `M S8` (R71). -/
def stopmarkSlots : List Bool := marks 1 ++ spaces 8

/-- BIT(d) of R72. -/
def bitSlots (d : Bool) : List Bool := if d then bit1Slots else bit0Slots

/-- The bits of a byte, most significant first (R72). -/
def byteBits (b : Byte) : List Bool := [7, 6, 5, 4, 3, 2, 1, 0].map b.getLsbD

/-- BYTE(b): the eight bit symbols of `b` (R72). -/
def byteSlots (b : Byte) : List Bool := (byteBits b).flatMap bitSlots

/-- The layout of a built slot program: START, the six bytes, STOPMARK (R73). -/
def frameSlots (f : RawFrame) : List Bool := startSlots ++ f.bytes.flatMap byteSlots ++ stopmarkSlots

/-! ### Reading pulse symbols -/

/-- The maximal runs of equal bits, as (value, length) pairs (R75). -/
def runsOf : List Bool → List (Bool × Nat)
  | [] => []
  | b :: rest =>
    match runsOf rest with
    | [] => [(b, 1)]
    | (c, n) :: more => if c = b then (c, n + 1) :: more else (b, 1) :: (c, n) :: more

/-- Runs that alternate mark, space, mark, space, … read as (mark length, space length) pairs, one a pulse symbol (R75). -/
def pulseWidths : List (Bool × Nat) → Option (List (Nat × Nat))
  | [] => some []
  | (true, m) :: (false, s) :: rest => (pulseWidths rest).map ((m, s) :: ·)
  | _ => none

/-- The data bits of a run of bit symbols: (1, 1) is BIT0 and (1, 3) is BIT1 (R75). -/
def dataBits : List (Nat × Nat) → Option (List Bool)
  | [] => some []
  | (1, 1) :: rest => (dataBits rest).map (false :: ·)
  | (1, 3) :: rest => (dataBits rest).map (true :: ·)
  | _ => none

/-- The number whose binary digits are `ds`, the first of them most significant. -/
def bitsToNat (ds : List Bool) : Nat := ds.foldl (fun acc d => 2 * acc + d.toNat) 0

/-- A byte from its bits, the first of them bit 7 (R75). -/
def byteOfBits (ds : List Bool) : Byte := BitVec.ofNat 8 (bitsToNat ds)

/-- A run of slots read as one pulse symbol: the pair of run lengths identifies it, and eight bit symbols are a BYTE
(R72, R75). -/
def decodeSymbol (bits : List Bool) : Except Reject Instr :=
  match pulseWidths (runsOf bits) with
  | some [(8, 8)] => .ok .start
  | some [(1, 1)] => .ok .bit0
  | some [(1, 3)] => .ok .bit1
  | some [(1, 8)] => .ok .stopmark
  | some widths =>
    if widths.length = 8 then
      match dataBits widths with
      | some ds => .ok (.byte (byteOfBits ds))
      | none => .error .notAPulseSymbol
    else .error .notAPulseSymbol
  | none => .error .notAPulseSymbol

/-- The first `n` slots of an image, in slot-index order: the slot program (R62). -/
def programSlots (image : SlotImage) (n : Nat) : List Bool := (List.range n).map image.getLsbD

/-- A slot image from a run of slots, slot 0 first; the slots above the run are 0 (R62, R64). -/
def imageOfSlots (slots : List Bool) : SlotImage :=
  slots.foldr (fun b image => (image <<< 1) ||| BitVec.ofNat 256 b.toNat) 0

/-- A slot image from its byte image: slot `k` is bit `k mod 8` of byte `k div 8`, bit 0 least significant (R44, R62,
D15). -/
def imageOfBytes (bytes : List Byte) : SlotImage :=
  imageOfSlots (bytes.flatMap fun b => (List.range 8).map b.getLsbD)

/-- The 32 bytes of a slot image, in the same packing (R44, R62). -/
def imageBytes (image : SlotImage) : List Byte := (List.range 32).map fun j => image.extractLsb' (8 * j) 8

/-- Six bytes from 48 data bits, byte 0 first and bit 7 first in each (R75). -/
def frameOfBits (ds : List Bool) : RawFrame where
  f0 := byteOfBits (ds.take 8)
  f1 := byteOfBits ((ds.drop 8).take 8)
  f2 := byteOfBits ((ds.drop 16).take 8)
  f3 := byteOfBits ((ds.drop 24).take 8)
  f4 := byteOfBits ((ds.drop 32).take 8)
  f5 := byteOfBits ((ds.drop 40).take 8)

/-- DecodeSlots on a list of slots: START, 48 bit symbols and STOPMARK, and nothing else (R75). -/
def decodeProgram (slots : List Bool) : Option RawFrame :=
  match pulseWidths (runsOf slots) with
  | some ((8, 8) :: rest) =>
    if rest.length = 49 ∧ rest.getLast? = some (1, 8) then (dataBits rest.dropLast).map frameOfBits else none
  | _ => none

/-- DecodeSlots(bits, slot_count) (R75). -/
def decodeSlots (image : SlotImage) (slotCount : Nat) : Option RawFrame := decodeProgram (programSlots image slotCount)

/-! ### Format H -/

/-- Field `op`, bits 1:0 (R63). -/
def commandOp (w : CommandWord) : BitVec 2 := w.extractLsb' 0 2

/-- Field `repeat`, bits 9:2 (R63). -/
def commandRepeat (w : CommandWord) : BitVec 8 := w.extractLsb' 2 8

/-- Field `slot_count`, bits 18:10 (R63). -/
def commandSlotCount (w : CommandWord) : BitVec 9 := w.extractLsb' 10 9

/-- Field `slots`: `SLOTS[k]` is bit `19 + k` (R63). -/
def commandSlots (w : CommandWord) : SlotImage := w.extractLsb' 19 256

/-- The host operation of a command word; the operand bits of IS_IDLE and STOP are ignored, operands are zero-extended
(R63, R64). Code `0b11` is reserved (R74). STOP decodes in every configuration; where HAS_STOP is false its meaning answers
as the reserved code does. -/
def decodeCommand (w : CommandWord) : Except Reject Instr :=
  match (commandOp w).toNat with
  | 0 => .ok .isIdle
  | 1 => .ok (.arm (commandSlots w) (commandSlotCount w).toNat (commandRepeat w).toNat)
  | 2 => .ok .stop
  | _ => .error .reservedOperation

/-- The symbol of a slot bit: 1 is MARK, 0 is SPACE; there is no other value (R61, R74 (a)). -/
def decodeSlot (bit : Bool) : Instr := if bit then .mark else .space

/-- The decoder of every format that has an encoding. -/
def decode : Encoded → Except Reject Instr
  | .slot bit => .ok (decodeSlot bit)
  | .command w => decodeCommand w
  | .symbol bits => decodeSymbol bits

/-! ### The encoder -/

/-- A command word from its fields, `{slots, slot_count, repeat, op}` (R63). -/
def commandWord (slots : SlotImage) (slotCount : BitVec 9) (repeats : BitVec 8) (op : BitVec 2) : CommandWord :=
  (slots ++ slotCount ++ repeats ++ op).cast (by decide)

/-- The encoding of an instruction, written from the tables of R61, R63 and R68 to R72; none for the event and for the host
software, which have no bit encoding (R77). Ignored operand bits are written as zeros. -/
def encode : Instr → Option Encoded
  | .mark => some (.slot true)
  | .space => some (.slot false)
  | .isIdle => some (.command (commandWord 0 0 0 0b00))
  | .arm slots slotCount repeats =>
    some (.command (commandWord slots (BitVec.ofNat 9 slotCount) (BitVec.ofNat 8 repeats) 0b01))
  | .stop => some (.command (commandWord 0 0 0 0b10))
  | .start => some (.symbol startSlots)
  | .bit0 => some (.symbol bit0Slots)
  | .bit1 => some (.symbol bit1Slots)
  | .stopmark => some (.symbol stopmarkSlots)
  | .byte b => some (.symbol (byteSlots b))
  | .tick => none
  | .encode _ => none
  | .frame _ => none
  | .build _ => none
  | .encodeAndSend _ => none
  | .sendFixedCommand _ _ => none

/-! ### Words as the opcode table numbers them -/

/-- The slots of a pulse symbol written as a number. The table writes them in slot-index order, leftmost slot 0, so slot 0 is
the number's highest one bit: every pulse symbol begins with a mark (R68 to R72). -/
def symbolOfNat (nbits w : Nat) : List Bool :=
  ((List.range nbits).map fun i => w.testBit (nbits - 1 - i)).dropWhile (!·)

/-- The format of a table word, told by its width (log 10): one bit is a slot symbol; 4 bits (BIT1), and 9 to 32 bits
(STOPMARK, START, BYTE), are a pulse symbol; 2 or 8 bits, and more than 32, are a command word whose further bits are
zero. -/
def tableEncoded (nbits w : Nat) : Encoded :=
  if nbits = 1 then .slot (w.testBit 0)
  else if nbits = 0 ∨ nbits = 4 ∨ (9 ≤ nbits ∧ nbits ≤ 32) then .symbol (symbolOfNat nbits w)
  else .command (BitVec.ofNat 275 w)

/-- The instruction the decoder reads from a word of the opcode table; none where it rejects the word. -/
def decodeTableWord (nbits w : Nat) : Option Instr := (decode (tableEncoded nbits w)).toOption

end Sys2Proof
end

