-- ==== Sys2Proof/Machine/State.lean ====
section
/-! DEFINITION. The machine's state as plain data, its faults and refusals, and the state after reset. -/

namespace Sys2Proof.Machine

/-- One location of the slot space and the bit it holds: an address is a slot index, a location is one bit (R40). -/
abbrev SlotCell := Nat × Bool

/-- Why the machine stops with a fault. Both are unreachable from reset (R33 (c), R46), and both are safe: the machine stops
where the hardware's rules give no value. -/
inductive Fault where
  /-- TICK read a slot index at or above SLOT_CAPACITY, which does not exist (R46, R48). Raised by `slotRead`. Safe. -/
  | slotOutOfRange
  /-- TICK read a slot that nothing has written since reset: its value is unspecified (R21, U10). Raised by `slotRead`.
  Safe. -/
  | unwrittenSlot
deriving DecidableEq, Repr

/-- Why the machine gives a turn no meaning. -/
inductive Refusal where
  /-- An instruction with no meaning yet, by its mnemonic. Raised by `exec` only. Safe. -/
  | notModelled (mnemonic : String)
  /-- A HOST turn whose bits are the expansion of no pulse symbol (R75; log 14). Raised by `nextAction`. Safe. -/
  | notAPulseSymbol
  /-- A HOST turn that calls MARK, SPACE or TICK, which are not the HOST's to issue (R148; log 14). Raised by `nextAction`.
  Safe. -/
  | notAHostOperation
deriving DecidableEq, Repr

/-- One turn of an agent, or an event of the outside world (R6, R144; log 3). -/
inductive Turn where
  /-- The TICK agent: the timer's tick (R142). -/
  | tick
  /-- The HOST agent: a format H command word (R63). -/
  | command (word : CommandWord)
  /-- The HOST agent: the bits of a pulse symbol (R68 to R72). -/
  | symbol (bits : List Bool)
  /-- The HOST agent: an instruction at the operation level, operands as values (R64, R77). -/
  | call (instr : Instr)
  /-- Power-up, the reset event (R36, R160). -/
  | powerUp
deriving DecidableEq, Repr

/-- What the last host operation returned to its caller (R7, R136). -/
inductive Result where
  | nothing
  /-- The status of ARM, STOP, a reserved operation, a public operation, or a failed emit (R136). -/
  | status (st : Status)
  /-- The answer of IS_IDLE (R108). -/
  | answer (idle : Bool)
  /-- The packet of ENCODE (R83). -/
  | packet (p : ProtocolPacket)
  /-- The frame of FRAME (R90). -/
  | frame (f : RawFrame)
  /-- The slot program of BUILD (R95). -/
  | program (b : SlotBuffer)
deriving DecidableEq, Repr

/-- The state: the block's seven elements (R20), the host's own state (R7), and two fields of the model. -/
structure State where
  /-- SLOTS, as its written cells in rising order of index (R21, R41). -/
  slots : List SlotCell
  /-- SLOT_COUNT (R22). -/
  slotCount : BitVec 9
  /-- REPEAT_COUNT (R23). -/
  repeatCount : BitVec 8
  /-- CUR_SLOT (R24). -/
  curSlot : BitVec 9
  /-- CUR_SUB (R25). -/
  curSub : BitVec 6
  /-- TIMER_RUN (R26). -/
  timerRun : Bool
  /-- OUT (R27). -/
  out : Level
  /-- The host's SlotBuffer under construction (R7, R95, R100). -/
  buffer : SlotBuffer
  /-- What the last host operation returned (R7, R136). -/
  result : Result
  /-- The turns still to come, the next one first: the model's own field (log 3). -/
  schedule : List Turn
  /-- The parameter HAS_STOP, a strap that no step changes: the model's own field (R9, D10, log 5). -/
  hasStop : Bool
deriving DecidableEq, Repr

/-- The state right after power-up (R35, R160): Idle, the timer stopped, the line inactive, no slot written. The host's
buffer and result, and the empty schedule, are the model's choice (log 3, log 7); HAS_STOP is false in the base block
(R9). -/
def State.reset : State where
  slots := []
  slotCount := 0
  repeatCount := 0
  curSlot := 0
  curSub := 0
  timerRun := false
  out := .inactive
  buffer := { bits := 0, count := 0 }
  result := .nothing
  schedule := []
  hasStop := false

end Sys2Proof.Machine
end

