-- ==== Sys2Proof/Machine/Flags.lean ====
section
/-! DEFINITION. The derived conditions of the state: the flag IDLE, the carrier half-cycle, and the boundary tests of a TICK
step. The block stores no flag (R28). -/

namespace Sys2Proof.Machine

/-- IDLE, the block's one status flag: `REPEAT_COUNT == 0` (R28). -/
def idle (s : State) : Bool := s.repeatCount == 0

/-- The sub-tick is even: the active half of a carrier cycle (R117, D6). -/
def evenSubTick (s : State) : Bool := s.curSub.toNat % 2 == 0

/-- The tick in progress is the last of its slot: CUR_SUB reaches 42 (R119). -/
def endsSlot (s : State) : Bool := s.curSub + 1 == BitVec.ofNat 6 Config.subslotsPerSlot

/-- The slot in progress is the last of its pass: CUR_SLOT reaches SLOT_COUNT (R121). -/
def endsPass (s : State) : Bool := s.curSlot + 1 == s.slotCount

/-- The pass in progress is the last one: REPEAT_COUNT reaches 0 (R122). -/
def endsTransmission (s : State) : Bool := s.repeatCount - 1 == 0

end Sys2Proof.Machine
end

