-- ==== Sys2Proof/Machine/Ops.lean ====
section
/-! DEFINITION. The named operations of R11 over the state: the slot space, the timer, the output line, the return of a
status, the parts of a TICK step, and the host's emit. -/

namespace Sys2Proof.Machine

/-! ### The slot space -/

/-- The bit a list of cells holds at index `k`; none where nothing was written. -/
def slotLookup : List SlotCell → Nat → Option Bool
  | [], _ => none
  | (a, b) :: rest, k => if a = k then some b else slotLookup rest k

/-- The canonical form of the slot space: indices strictly rising, each of them in the slot space (R42). An unlisted index
reads as no value, so no entry can repeat what an unlisted index reads as. -/
def Memory.wf : List SlotCell → Bool
  | [] => true
  | [(a, _)] => decide (a < Config.slotCapacity)
  | (a, _) :: (a', b') :: rest => decide (a < a') && Memory.wf ((a', b') :: rest)

/-- `SlotRead(k)`: one bit, no side effect (R11, R47). An index outside the slot space faults (R46), and so does a slot that
nothing has written (R21, U10). -/
def slotRead (s : State) (k : Nat) : Except Fault Bool :=
  if Config.slotCapacity ≤ k then .error .slotOutOfRange
  else
    match slotLookup s.slots k with
    | some b => .ok b
    | none => .error .unwrittenSlot

/-- The slot space after `SlotStoreAll(image)`: every location holds its bit of the image (R11, R105). -/
def storedCells (image : SlotImage) : List SlotCell :=
  (List.range Config.slotCapacity).map fun k => (k, image.getLsbD k)

/-- `SlotStoreAll(image)` (R11). -/
def slotStoreAll (image : SlotImage) (s : State) : State := { s with slots := storedCells image }

/-- One location set in a list of cells, keeping the canonical form. The block has no such operation; it serves to place a
slot symbol where the next TICK fetches it. -/
def setCell (k : Nat) (b : Bool) : List SlotCell → List SlotCell
  | [] => [(k, b)]
  | (a, c) :: rest =>
    if k < a then (k, b) :: (a, c) :: rest
    else if k = a then (k, b) :: rest
    else (a, c) :: setCell k b rest

/-! ### The collaborators -/

/-- `timer_start()`: TIMER_RUN <- 1 (R11, R26). -/
def timerStart (s : State) : State := { s with timerRun := true }

/-- `timer_stop()`: TIMER_RUN <- 0 (R11, R26). -/
def timerStop (s : State) : State := { s with timerRun := false }

/-- `set_active()` and `set_inactive()`: OUT <- the level (R11, R27). -/
def setOut (level : Level) (s : State) : State := { s with out := level }

/-- The electrical level of the pin, high or low: ACTIVE_LEVEL is open (R9, D3, log 17). -/
def pinIsHigh (s : State) : Bool := (s.out == .active) == Config.activeIsHigh

/-! ### Returning to the caller -/

/-- A host operation hands its result to its caller; no state of the block holds it (R32 (d), R136). -/
def returnResult (r : Result) (s : State) : State := { s with result := r }

/-- `return <Status>`, which is what raising an exception is on this hardware (R11, R136): the caller gets the status, and
the block saves nothing and changes nothing. -/
def returnStatus (st : Status) (s : State) : State := returnResult (.status st) s

/-! ### The parts of a TICK step -/

/-- MARK's drive of the line: active on even sub-ticks, inactive on odd ones (R117). -/
def driveMark (s : State) : State := setOut (if evenSubTick s then .active else .inactive) s

/-- SPACE's drive of the line: inactive (R118). -/
def driveSpace (s : State) : State := setOut .inactive s

/-- The drive of the fetched slot symbol (R116). -/
def driveSymbol (bit : Bool) (s : State) : State := if bit then driveMark s else driveSpace s

/-- Completion: CUR_SLOT is left at SLOT_COUNT, the timer stops, the line is forced inactive (R122, D13). -/
def completeTransmission (s : State) : State :=
  setOut .inactive (timerStop { s with curSlot := s.curSlot + 1, curSub := 0, repeatCount := s.repeatCount - 1 })

/-- Replay: one pass fewer to go, and the cursors return to zero (R121). -/
def replayPass (s : State) : State := { s with curSlot := 0, curSub := 0, repeatCount := s.repeatCount - 1 }

/-- Slot advance: the next slot, its first sub-tick (R119, R120). -/
def nextSlot (s : State) : State := { s with curSlot := s.curSlot + 1, curSub := 0 }

/-- The next sub-tick of the same slot (R119). -/
def nextSubTick (s : State) : State := { s with curSub := s.curSub + 1 }

/-- The cursors' advance, which a TICK step makes after it has driven the line (R116, R119 to R122, D5). -/
def advance (s : State) : State :=
  if endsSlot s then
    if endsPass s then
      if endsTransmission s then completeTransmission s else replayPass s
    else nextSlot s
  else nextSubTick s

/-! ### The host's buffer -/

/-- One bit of a slot image set. -/
def setSlot (image : SlotImage) (k : Nat) (v : Bool) : SlotImage :=
  (image &&& ~~~(1#256 <<< k)) ||| ((if v then 1#256 else 0#256) <<< k)

/-- `emit` of R95 for each slot of a run, in order: a slot that would pass the capacity is not written and ends the run with
`CapacityExceeded` (R97). The slots before it stay written. -/
def emitAll (capacity : Nat) : List Bool → SlotBuffer → SlotBuffer × Status
  | [], b => (b, .ok)
  | v :: rest, b =>
    if capacity ≤ b.count then (b, .capacityExceeded)
    else emitAll capacity rest { bits := setSlot b.bits b.count v, count := b.count + 1 }

/-- The host's buffer replaced. -/
def setBuffer (b : SlotBuffer) (s : State) : State := { s with buffer := b }

/-- A pulse symbol of the host software: its slots are emitted into the buffer under construction. A failed emit returns
`CapacityExceeded`; otherwise nothing is returned (R95, R97, log 8). -/
def emitSymbol (slots : List Bool) (s : State) : State :=
  match emitAll Config.slotCapacity slots s.buffer with
  | (b, .ok) => setBuffer b s
  | (b, st) => returnStatus st (setBuffer b s)

end Sys2Proof.Machine
end

