-- ==== Sys2Proof/Machine/Operands.lean ====
section
/-! DEFINITION. ARM's operands: their checks in order, and the state an accepted ARM leaves; the numeric codes of the
statuses. -/

namespace Sys2Proof.Machine

/-- The numeric code of a status (R136, D14). -/
def statusCode : Status → Nat
  | .ok => 0
  | .engineBusy => 1
  | .capacityExceeded => 2
  | .invalidState => 3
  | .invalidArgument => 4

/-- ARM's checks, in the order of R105, R106 and R107: the first that fails gives the status; none when ARM is accepted. -/
def armCheck (s : State) (slotCount repeats : Nat) : Option Status :=
  if !idle s then some .engineBusy
  else if Config.slotCapacity < slotCount then some .capacityExceeded
  else if slotCount = 0 then some .invalidArgument
  else if repeats = 0 ∨ Config.maxRepeat < repeats then some .invalidArgument
  else none

/-- What an accepted ARM writes: the image, the count, the cursors, the repeat count, and the timer start last (R105). -/
def loadProgram (image : SlotImage) (slotCount repeats : Nat) (s : State) : State :=
  timerStart
    { slotStoreAll image s with
      slotCount := BitVec.ofNat 9 slotCount
      curSlot := 0
      curSub := 0
      repeatCount := BitVec.ofNat 8 repeats }

/-- ARM as one atomic transition: check, then either store and start or change nothing (R53, R105). -/
def armEngine (image : SlotImage) (slotCount repeats : Nat) (s : State) : State :=
  match armCheck s slotCount repeats with
  | some st => returnStatus st s
  | none => returnStatus .ok (loadProgram image slotCount repeats s)

end Sys2Proof.Machine
end

