-- ==== Sys2Proof/Machine/HostOps.lean ====
section
/-! DEFINITION. The meanings of ARM, IS_IDLE and STOP (43_engine_host_ops.md). -/

namespace Sys2Proof.Machine

/-- ARM (R105 to R107). -/
def execArm (slots : SlotImage) (slotCount repeats : Nat) (s : State) : Host.Outcome State Fault Refusal :=
  .next (armEngine slots slotCount repeats s)

/-- IS_IDLE (R108). -/
def execIsIdle (s : State) : Host.Outcome State Fault Refusal := .next (returnResult (.answer (idle s)) s)

/-- STOP (R109): the timer halted, the line forced inactive, REPEAT_COUNT cleared, in one transition; the cursors stay. -/
def stopEngine (s : State) : State :=
  returnStatus .ok { setOut .inactive (timerStop s) with repeatCount := 0 }

/-- STOP (R109) where HAS_STOP is true; where it is false the code is reserved and answers `InvalidArgument` (R74 (c)). -/
def execStop (s : State) : Host.Outcome State Fault Refusal :=
  .next (if s.hasStop then stopEngine s else returnStatus .invalidArgument s)

end Sys2Proof.Machine
end

