-- ==== Sys2Proof/Machine/Playback.lean ====
section
/-! DEFINITION. The meanings of MARK, SPACE and TICK (44_engine_playback.md). -/

namespace Sys2Proof.Machine

/-- MARK (R117): the drive of the line only; the TICK that fetches it advances the cursors (log 18). -/
def execMark (s : State) : Host.Outcome State Fault Refusal := .next (driveMark s)

/-- SPACE (R118): the drive of the line only; the TICK that fetches it advances the cursors (log 18). -/
def execSpace (s : State) : Host.Outcome State Fault Refusal := .next (driveSpace s)

/-- TICK (R116): nothing in Idle (R123); in Playing fetch `SLOTS[CUR_SLOT]`, drive the line by it, then advance. -/
def execTick (s : State) : Host.Outcome State Fault Refusal :=
  if idle s then .next s
  else
    match slotRead s s.curSlot.toNat with
    | .ok bit => .next (advance (driveSymbol bit s))
    | .error f => .fault f

end Sys2Proof.Machine
end

