-- ==== Sys2Proof/Machine/PulseSymbols.lean ====
section
/-! DEFINITION. The meanings of the pulse symbols START, BIT0, BIT1, STOPMARK and BYTE (R68 to R72): each emits its
expansion into the host's buffer (log 8). -/

namespace Sys2Proof.Machine

/-- START (R68). -/
def execStart (s : State) : Host.Outcome State Fault Refusal := .next (emitSymbol startSlots s)

/-- BIT0 (R69). -/
def execBit0 (s : State) : Host.Outcome State Fault Refusal := .next (emitSymbol bit0Slots s)

/-- BIT1 (R70). -/
def execBit1 (s : State) : Host.Outcome State Fault Refusal := .next (emitSymbol bit1Slots s)

/-- STOPMARK (R71). -/
def execStopmark (s : State) : Host.Outcome State Fault Refusal := .next (emitSymbol stopmarkSlots s)

/-- BYTE(b) (R72). -/
def execByte (b : Byte) (s : State) : Host.Outcome State Fault Refusal := .next (emitSymbol (byteSlots b) s)

end Sys2Proof.Machine
end

