-- ==== Sys2Proof/Machine/Software.lean ====
section
/-! DEFINITION. The meanings of the host software: ENCODE, FRAME, BUILD, ENCODE_AND_SEND and SEND_FIXED_COMMAND
(40_packet_encoder.md, 41_frame_builder.md, 42_pulse_train_builder.md, 45_public_operations.md). -/

namespace Sys2Proof.Machine

/-! ### The pure stages -/

/-- The `fan` nibble of an enabled state (R83). -/
def fanNibble (st : ACState) : Nibble :=
  if st.mode = .auto then Config.fanAuto else Config.fanTable st.fanLevel

/-- The `temp` nibble of an enabled state: the subtraction is made only inside 17..30 (R83, R84). -/
def tempNibble (st : ACState) : Nibble :=
  if st.mode = .fan then Config.tempNa
  else if h : 17 ≤ st.temperature ∧ st.temperature ≤ 30 then
    Config.tempTable ⟨(st.temperature - 17).toNat, by omega⟩
  else Config.tempFallback

/-- The packing of the packet bytes: `P0 = MAGIC`, `P1 = {fan, state}`, `P2 = {temp, command}` (R67, D19). -/
def packPacket (state fan command temp : Nibble) : ProtocolPacket where
  p0 := Config.magic
  p1 := fan ++ state
  p2 := temp ++ command

/-- ENCODE(st) (R82, R83). -/
def encodePacket (st : ACState) : ProtocolPacket :=
  if st.enabled then packPacket Config.stateOn (fanNibble st) (Config.cmdCode st.mode) (tempNibble st)
  else Config.offPacket

/-- FRAME(p): each byte followed by its eight-bit complement (R90). -/
def framePacket (p : ProtocolPacket) : RawFrame where
  f0 := p.p0
  f1 := ~~~p.p0
  f2 := p.p1
  f3 := ~~~p.p1
  f4 := p.p2
  f5 := ~~~p.p2

/-- BUILD(F) into a buffer that is reused: `n` starts at 0, and bits at and above the final `n` keep what they held
(R95). -/
def buildFrame (capacity : Nat) (f : RawFrame) (b : SlotBuffer) : SlotBuffer × Status :=
  emitAll capacity (frameSlots f) { b with count := 0 }

/-- FRAME, BUILD, then ARM with a repeat count; a failed BUILD returns its status and ARM is not reached (R130, R131). -/
def sendPacket (p : ProtocolPacket) (repeats : Nat) (s : State) : State :=
  match buildFrame Config.slotCapacity (framePacket p) s.buffer with
  | (b, .ok) => armEngine b.bits b.count repeats (setBuffer b s)
  | (b, st) => returnStatus st (setBuffer b s)

/-! ### The meanings -/

/-- ENCODE (R82 to R84). -/
def execEncode (st : ACState) (s : State) : Host.Outcome State Fault Refusal :=
  .next (returnResult (.packet (encodePacket st)) s)

/-- FRAME (R90). -/
def execFrame (p : ProtocolPacket) (s : State) : Host.Outcome State Fault Refusal :=
  .next (returnResult (.frame (framePacket p)) s)

/-- BUILD (R95, R97). -/
def execBuild (f : RawFrame) (s : State) : Host.Outcome State Fault Refusal :=
  match buildFrame Config.slotCapacity f s.buffer with
  | (b, .ok) => .next (returnResult (.program b) (setBuffer b s))
  | (b, st) => .next (returnStatus st (setBuffer b s))

/-- ENCODE_AND_SEND (R130). -/
def execEncodeAndSend (st : ACState) (s : State) : Host.Outcome State Fault Refusal :=
  .next (sendPacket (encodePacket st) Config.defaultRepeat s)

/-- SEND_FIXED_COMMAND (R131). -/
def execSendFixedCommand (bytes : ProtocolPacket) (repeats : Nat) (s : State) : Host.Outcome State Fault Refusal :=
  .next (sendPacket bytes repeats s)

/-- The deflector-move command of the base design (R92, R131): its bytes are open. -/
def deflectorMove : Instr := .sendFixedCommand Config.deflectorBytes Config.fixedRepeat

end Sys2Proof.Machine
end

