-- ==== Sys2Proof/Machine/Dispatch.lean ====
section
/-! DEFINITION. One arm per instruction: its meaning. -/

namespace Sys2Proof.Machine

def exec (i : Instr) (s : State) : Host.Outcome State Fault Refusal :=
  match i with
  | .mark => Sys2Proof.Machine.execMark s
  | .space => Sys2Proof.Machine.execSpace s
  | .isIdle => Sys2Proof.Machine.execIsIdle s
  | .arm slots slotCount repeats => Sys2Proof.Machine.execArm slots slotCount repeats s
  | .stop => Sys2Proof.Machine.execStop s
  | .tick => Sys2Proof.Machine.execTick s
  | .start => Sys2Proof.Machine.execStart s
  | .bit0 => Sys2Proof.Machine.execBit0 s
  | .bit1 => Sys2Proof.Machine.execBit1 s
  | .stopmark => Sys2Proof.Machine.execStopmark s
  | .byte b => Sys2Proof.Machine.execByte b s
  | .encode st => Sys2Proof.Machine.execEncode st s
  | .frame p => Sys2Proof.Machine.execFrame p s
  | .build f => Sys2Proof.Machine.execBuild f s
  | .encodeAndSend st => Sys2Proof.Machine.execEncodeAndSend st s
  | .sendFixedCommand bytes repeats => Sys2Proof.Machine.execSendFixedCommand bytes repeats s

end Sys2Proof.Machine
end

