-- ==== Sys2Proof/Machine/Fetch.lean ====
section
/-! DEFINITION. What the next turn makes the machine do, and how an encoded instruction is placed where the next step fetches
it (log 3, log 11). -/

namespace Sys2Proof.Machine

/-- What a step does once the next turn is taken from the schedule. -/
inductive Action where
  /-- Run an instruction in a state. -/
  | run (i : Instr) (s : State)
  /-- No instruction runs; the state is the next state. -/
  | settle (s : State)
  /-- The turn has no meaning. -/
  | refuse (r : Refusal)
deriving DecidableEq, Repr

/-- The TICK agent's turn: it has a step exactly while TIMER_RUN = 1 (R26, R143); otherwise no tick occurs (R123). -/
def tickAction (s : State) : Action := if s.timerRun then .run .tick s else .settle s

/-- The state at power-up (R36, R160): the reset state. The strap and the turns still to come are not the machine's
(log 12). -/
def powerUpState (s : State) : State := { State.reset with schedule := s.schedule, hasStop := s.hasStop }

/-- One turn, in the state it leaves of the schedule. A reserved command word changes no state and returns
`InvalidArgument` (R74). -/
def turnAction (t : Turn) (s : State) : Action :=
  match t with
  | .tick => tickAction s
  | .command w =>
    match decode (.command w) with
    | .ok i => .run i s
    | .error _ => .settle (returnStatus .invalidArgument s)
  | .symbol bits =>
    match decode (.symbol bits) with
    | .ok i => .run i s
    | .error _ => .refuse .notAPulseSymbol
  | .call i => if i.hostIssued then .run i s else .refuse .notAHostOperation
  | .powerUp => .settle (powerUpState s)

/-- The next turn of the schedule; with none listed the running timer ticks, and a stopped one leaves the block at rest
(R153, R171). -/
def nextAction (s : State) : Action :=
  match s.schedule with
  | [] => tickAction s
  | t :: rest => turnAction t { s with schedule := rest }

/-- A state whose next TICK fetches a slot symbol: Playing, the timer running, the cursor inside the program. A state that
already plays keeps its cursors and counts; an idle one plays a one-slot program once. -/
def readyToTick (s : State) : State :=
  if s.timerRun && !idle s && decide (s.curSlot < s.slotCount) && decide (s.curSlot.toNat < Config.slotCapacity) then s
  else { s with slotCount := 1, repeatCount := 1, curSlot := 0, curSub := 0, timerRun := true }

/-- An encoded instruction placed where the next step fetches it: a slot symbol in `SLOTS[CUR_SLOT]` with the tick as the
next turn, a command word or a pulse symbol as the HOST's next turn. -/
def placeEncoded (e : Encoded) (s : State) : State :=
  match e with
  | .slot bit =>
    let t := readyToTick s
    { t with slots := setCell t.curSlot.toNat bit t.slots, schedule := .tick :: t.schedule }
  | .command w => { s with schedule := .command w :: s.schedule }
  | .symbol bits => { s with schedule := .symbol bits :: s.schedule }

end Sys2Proof.Machine
end

