-- ==== Sys2Proof/Machine/Step.lean ====
section
/-! DEFINITION. One step: the next turn is taken and what it fetches is run (R6, R50). -/

namespace Sys2Proof.Machine

/-- One atomic transition of the machine (R6, R50). -/
def step (s : State) : Host.Outcome State Fault Refusal :=
  match nextAction s with
  | .run i t => exec i t
  | .settle t => .next t
  | .refuse r => .refused r

/-- The state with an opcode-table word placed where the next step fetches its instruction (log 10, log 11). -/
def State.withFetchWord (s : State) (nbits w : Nat) : State := placeEncoded (tableEncoded nbits w) s

end Sys2Proof.Machine
end

