-- ==== Sys2Proof/Machine/Listing.lean ====
section
/-! DEFINITION. The listing syntax of R76 as data: the tokens of a slot program and the lines of a host script, with what
they stand for: a run of slots, and the turns the agents take. -/

namespace Sys2Proof.Machine

/-- A token of a slot program (R76). -/
inductive Token where
  /-- `Mn`, and `M` for `n = 1`. -/
  | marks (n : Nat)
  /-- `Sn`, and `S` for `n = 1`. -/
  | spaces (n : Nat)
  | start
  | bit0
  | bit1
  /-- `BYTE 0xNN`. -/
  | byte (b : Byte)
  | stopmark
  /-- `FRAME 0xAA 0xBB 0xCC`: START, the six BYTEs of the frame of the packet, STOPMARK. -/
  | frame (p : ProtocolPacket)
deriving DecidableEq, Repr

/-- A line of a host script (R76). -/
inductive ScriptLine where
  /-- `ARM <program>, repeat=<n>`: the slot count is the length of the program. -/
  | arm (program : List Token) (repeats : Nat)
  /-- The same with an explicit slot count, as the test vectors write operands that ARM rejects. -/
  | armCount (program : List Token) (slotCount repeats : Nat)
  | isIdle
  | stop
  /-- `TICK × n`. -/
  | ticks (n : Nat)
deriving DecidableEq, Repr

/-- The slots of a token (R68 to R73, R76, R90). -/
def tokenSlots : Token → List Bool
  | .marks n => Sys2Proof.marks n
  | .spaces n => Sys2Proof.spaces n
  | .start => startSlots
  | .bit0 => bit0Slots
  | .bit1 => bit1Slots
  | .byte b => byteSlots b
  | .stopmark => stopmarkSlots
  | .frame p => frameSlots (framePacket p)

/-- The slots of a program. -/
def listingSlots (program : List Token) : List Bool := program.flatMap tokenSlots

/-- The ARM of a listed program. -/
def armListing (program : List Token) (repeats : Nat) : Instr :=
  .arm (imageOfSlots (listingSlots program)) (listingSlots program).length repeats

/-- The turns of a script line. -/
def lineTurns : ScriptLine → List Turn
  | .arm program repeats => [.call (armListing program repeats)]
  | .armCount program slotCount repeats => [.call (.arm (imageOfSlots (listingSlots program)) slotCount repeats)]
  | .isIdle => [.call .isIdle]
  | .stop => [.call .stop]
  | .ticks n => List.replicate n .tick

/-- The turns of a script. -/
def scriptTurns (script : List ScriptLine) : List Turn := script.flatMap lineTurns

end Sys2Proof.Machine
end

