-- ==== Sys2Proof/Safety.lean ====
section
/-! DEFINITION. What the outside can see (R8), the end of a run (R8, R122), and the invariant of R33. -/

namespace Sys2Proof.Machine

/-- What the outside can see of a state (R8). -/
structure Observation where
  out : Level
  timerRun : Bool
  result : Result
deriving DecidableEq, Repr

/-- The observation of a state (R8). -/
def observe (s : State) : Observation := { out := s.out, timerRun := s.timerRun, result := s.result }

/-- The end of a run: Idle, the timer stopped, the line inactive (R8, R122). -/
def endOfRun (s : State) : Prop := s.repeatCount = 0 ∧ s.timerRun = false ∧ s.out = .inactive

/-- Two states agree on the seven elements of the block (R20). -/
structure SameBlock (s t : State) : Prop where
  slots : t.slots = s.slots
  slotCount : t.slotCount = s.slotCount
  repeatCount : t.repeatCount = s.repeatCount
  curSlot : t.curSlot = s.curSlot
  curSub : t.curSub = s.curSub
  timerRun : t.timerRun = s.timerRun
  out : t.out = s.out

/-- Two states agree on the host's own state and on the model's fields (R7). -/
structure SameHost (s t : State) : Prop where
  buffer : t.buffer = s.buffer
  result : t.result = s.result
  schedule : t.schedule = s.schedule
  hasStop : t.hasStop = s.hasStop

/-- The invariant of R33, clause by clause, with what the model adds for its memory and the host's buffer. -/
structure EngineInv (s : State) : Prop where
  /-- (a) TIMER_RUN = 1 if and only if REPEAT_COUNT > 0. -/
  timer : s.timerRun = true ↔ s.repeatCount ≠ 0
  /-- (b) In Idle the line is inactive. -/
  idleOut : s.repeatCount = 0 → s.out = .inactive
  /-- (c) While Playing the count and the cursors are in range. -/
  count : s.repeatCount ≠ 0 → 1 ≤ s.slotCount.toNat ∧ s.slotCount.toNat ≤ Config.slotCapacity
  slot : s.repeatCount ≠ 0 → s.curSlot.toNat < s.slotCount.toNat
  sub : s.repeatCount ≠ 0 → s.curSub.toNat < Config.subslotsPerSlot
  /-- (d) While Playing the line is active exactly after an even sub-tick of a mark slot. -/
  phase : s.repeatCount ≠ 0 →
    (s.out = .active ↔ s.curSub.toNat % 2 = 1 ∧ slotLookup s.slots s.curSlot.toNat = some true)
  /-- (e) In Idle, where no STOP exists, the cursors are those of reset or of completion. -/
  idleCursors : s.repeatCount = 0 → s.hasStop = false → s.curSub = 0 ∧ s.curSlot = s.slotCount
  /-- The slot space is in canonical form. -/
  memory : Memory.wf s.slots = true
  /-- While Playing every slot has been written (R21). -/
  written : s.repeatCount ≠ 0 → ∀ k, k < Config.slotCapacity → (slotLookup s.slots k).isSome = true
  /-- The host's count never passes the capacity (R97). -/
  bufferCount : s.buffer.count ≤ Config.slotCapacity

/-- The number of TICK steps a transmission in progress still takes: the passes after this one, and what is left of this
one (R30, R124, R170). -/
def ticksLeft (s : State) : Nat :=
  Config.subslotsPerSlot * s.slotCount.toNat * (s.repeatCount.toNat - 1)
    + (Config.subslotsPerSlot * (s.slotCount.toNat - s.curSlot.toNat) - s.curSub.toNat)

/-- `k` steps, stopping at the first fault or refusal: the run of the host's interface (`Host.Core.run core`), written over
`step` itself. -/
def run : Nat → State → Host.Outcome State Fault Refusal
  | 0, s => .next s
  | k + 1, s =>
    match step s with
    | .next t => run k t
    | .fault f => .fault f
    | .refused r => .refused r

/-- The level of the line after `k` steps (R8: the waveform is the sequence of these). -/
def levelAfter (k : Nat) (s : State) : Level :=
  match run k s with
  | .next t => t.out
  | .fault _ => .inactive
  | .refused _ => .inactive

/-- Step `k` of a run, numbered from 0, uses up the window of a slot: CUR_SUB wraps to a smaller value (R119, R120). -/
def endsWindow (k : Nat) (s : State) : Bool :=
  match run k s, run (k + 1) s with
  | .next t, .next u => decide (u.curSub.toNat < t.curSub.toNat)
  | _, _ => false

/-- The slot advances of the first `k` steps of a run: the steps on which CUR_SUB wraps (R120, R124). -/
def slotAdvances (k : Nat) (s : State) : Nat := (List.range k).countP fun j => endsWindow j s

/-- The operands an idle engine accepts (R107). -/
def acceptable (slotCount repeats : Nat) : Prop :=
  1 ≤ slotCount ∧ slotCount ≤ Config.slotCapacity ∧ 1 ≤ repeats ∧ repeats ≤ Config.maxRepeat

/-- The number of one bits of a byte (R72). -/
def popcount (b : Byte) : Nat := (List.range 8).countP b.getLsbD

/-- The number of one bits of a frame's six bytes (R96). -/
def framePopcount (f : RawFrame) : Nat := (f.bytes.map popcount).sum

end Sys2Proof.Machine
end

