-- ==== Sys2Proof/Certificates/Slice0/Obligations.lean ====
section
/-! DEFINITION. The statements for the provers. -/

open Sys2Proof Sys2Proof.Machine

/-! ### Reset and the invariant -/

/-- R35: the block's state after reset. The values beside REPEAT_COUNT are the spec's decision D12 (log 6); SLOTS is
unspecified, which the model says by listing no slot (log 1). -/
def Obligations.ResetPutsTheBlockInIdle : Prop :=
  State.reset.repeatCount = 0 ∧ idle State.reset = true ∧ State.reset.slotCount = 0 ∧ State.reset.curSlot = 0 ∧
    State.reset.curSub = 0 ∧ State.reset.timerRun = false ∧ State.reset.out = .inactive ∧
    ∀ k, slotLookup State.reset.slots k = none

/-- R33 at reset, whatever the turns to come and the strap are. -/
def Obligations.ResetMeetsTheInvariant : Prop :=
  ∀ (turns : List Turn) (strap : Bool), EngineInv { State.reset with schedule := turns, hasStop := strap }

/-- R33: every step from a state that meets the invariant leads to one that meets it. -/
def Obligations.StepKeepsTheInvariant : Prop :=
  ∀ s t : State, EngineInv s → step s = .next t → EngineInv t

/-- R46, R115: no state that meets the invariant faults on its next step. -/
def Obligations.InvariantRulesOutFaults : Prop :=
  ∀ (s : State) (f : Fault), EngineInv s → step s ≠ .fault f

/-- R46 over whole runs: whatever the HOST does and however the agents interleave, no run from reset faults. -/
def Obligations.NoRunFromResetFaults : Prop :=
  ∀ (turns : List Turn) (strap : Bool) (k : Nat) (f : Fault),
    run k { State.reset with schedule := turns, hasStop := strap } ≠ .fault f

/-- R36, R160: power-up in any state leaves the reset state; the turns to come and the strap are not the machine's
(log 12). -/
def Obligations.PowerUpGivesTheResetState : Prop :=
  ∀ (s : State) (rest : List Turn), s.schedule = .powerUp :: rest →
    step s = .next { State.reset with schedule := rest, hasStop := s.hasStop }

/-! ### The step -/

/-- A step runs the instruction it fetches, in the state that has taken the turn (log 3): a command word and a pulse symbol
through the decoder, a call as it is; bits that decode to no pulse symbol, and calls that are not the HOST's, are refused
(log 14). -/
def Obligations.StepRunsTheFetchedInstruction : Prop :=
  (∀ (s : State) (w : CommandWord) (rest : List Turn) (i : Instr),
      s.schedule = .command w :: rest → decode (.command w) = .ok i → step s = exec i { s with schedule := rest }) ∧
  (∀ (s : State) (bits : List Bool) (rest : List Turn) (i : Instr),
      s.schedule = .symbol bits :: rest → decode (.symbol bits) = .ok i → step s = exec i { s with schedule := rest }) ∧
  (∀ (s : State) (i : Instr) (rest : List Turn),
      s.schedule = .call i :: rest → i.hostIssued = true → step s = exec i { s with schedule := rest }) ∧
  (∀ (s : State) (bits : List Bool) (rest : List Turn) (e : Reject),
      s.schedule = .symbol bits :: rest → decode (.symbol bits) = .error e → step s = .refused .notAPulseSymbol) ∧
  (∀ (s : State) (i : Instr) (rest : List Turn),
      s.schedule = .call i :: rest → i.hostIssued = false → step s = .refused .notAHostOperation)

/-- R26, R143: the TICK agent has a step exactly while TIMER_RUN = 1; where no tick occurs the block stays as it is. -/
def Obligations.TickAgentStepsExactlyWhileTheTimerRuns : Prop :=
  (∀ (s : State) (rest : List Turn), s.schedule = .tick :: rest → s.timerRun = true →
      step s = exec .tick { s with schedule := rest }) ∧
  (∀ (s : State) (rest : List Turn), s.schedule = .tick :: rest → s.timerRun = false →
      step s = .next { s with schedule := rest }) ∧
  (∀ s : State, s.schedule = [] → s.timerRun = true → step s = exec .tick s) ∧
  (∀ s : State, s.schedule = [] → s.timerRun = false → step s = .next s)

/-- R116: in Playing, TICK runs the slot symbol that `SLOTS[CUR_SLOT]` decodes to, then advances the cursors. -/
def Obligations.TickRunsTheSlotSymbolAtTheCursor : Prop :=
  ∀ (s u : State) (bit : Bool) (i : Instr), s.repeatCount ≠ 0 → slotRead s s.curSlot.toNat = .ok bit →
    decode (.slot bit) = .ok i → exec i s = .next u → exec .tick s = .next (advance u)

/-- The model's own fields: a step takes at most one turn and never moves the strap HAS_STOP (log 3, log 5). -/
def Obligations.StepTakesOneTurnAndKeepsTheStrap : Prop :=
  ∀ s t : State, step s = .next t → t.schedule = s.schedule.tail ∧ t.hasStop = s.hasStop

/-! ### The slot space -/

/-- R47, R48, R105: after SlotStoreAll every slot of the slot space reads as its bit of the image, whatever was there; an
index outside the slot space faults. -/
def Obligations.StoredImageReadsBack : Prop :=
  ∀ (image : SlotImage) (s : State) (k : Nat),
    slotRead (slotStoreAll image s) k =
      if k < 256 then .ok (image.getLsbD k) else .error .slotOutOfRange

/-- R42: storing an image, and setting one location of the slot space, keep the canonical form of the memory. -/
def Obligations.SlotStoresKeepTheCanonicalForm : Prop :=
  (∀ image : SlotImage, Memory.wf (storedCells image) = true) ∧
  (∀ (k : Nat) (b : Bool) (cells : List SlotCell), k < 256 → Memory.wf cells = true →
      Memory.wf (setCell k b cells) = true)

/-! ### TICK, MARK, SPACE -/

/-- R117: MARK drives the line active on an even sub-tick and inactive on an odd one, and writes nothing else. That the even
half is the active one is the spec's decision D6 (log 15). -/
def Obligations.MarkDrivesTheCarrier : Prop :=
  ∀ s : State, exec .mark s = .next { s with out := if s.curSub.toNat % 2 = 0 then .active else .inactive }

/-- R118: SPACE drives the line inactive and writes nothing else. -/
def Obligations.SpaceHoldsTheLineInactive : Prop :=
  ∀ s : State, exec .space s = .next { s with out := .inactive }

/-- R123: TICK in Idle changes nothing (the spec's decision D11, log 4). -/
def Obligations.TickInIdleChangesNothing : Prop :=
  ∀ s : State, s.repeatCount = 0 → exec .tick s = .next s

/-- R116, R119: a TICK before the 42nd of its slot drives the line by the symbol and counts one sub-tick. -/
def Obligations.TickCountsSubTicks : Prop :=
  ∀ (s : State) (bit : Bool), s.repeatCount ≠ 0 → slotRead s s.curSlot.toNat = .ok bit → s.curSub.toNat < 41 →
    exec .tick s = .next { s with
      out := if bit = true ∧ s.curSub.toNat % 2 = 0 then .active else .inactive
      curSub := BitVec.ofNat 6 (s.curSub.toNat + 1) }

/-- R119, R120: the 42nd TICK of a slot that is not the last of its pass resets CUR_SUB and moves to the next slot. -/
def Obligations.FortySecondTickMovesToTheNextSlot : Prop :=
  ∀ (s : State) (bit : Bool), s.repeatCount ≠ 0 → slotRead s s.curSlot.toNat = .ok bit → s.curSub.toNat = 41 →
    s.curSlot.toNat + 1 < s.slotCount.toNat →
    exec .tick s = .next { s with out := .inactive, curSub := 0, curSlot := BitVec.ofNat 9 (s.curSlot.toNat + 1) }

/-- R121: the last TICK of a pass that is not the last counts the pass and returns both cursors to zero. That this is the tick
that finds CUR_SUB = 41, and that the line is inactive after it, are the spec's decisions D5 and D6 (log 15). -/
def Obligations.EndOfPassReplaysTheProgram : Prop :=
  ∀ (s : State) (bit : Bool), 2 ≤ s.repeatCount.toNat → slotRead s s.curSlot.toNat = .ok bit → s.curSub.toNat = 41 →
    s.curSlot.toNat + 1 = s.slotCount.toNat →
    exec .tick s = .next { s with
      out := .inactive, curSub := 0, curSlot := 0, repeatCount := BitVec.ofNat 8 (s.repeatCount.toNat - 1) }

/-- R122: the last TICK of the last pass stops the timer, forces the line inactive and leaves Idle; CUR_SLOT is left at
SLOT_COUNT. That this is the tick that finds CUR_SUB = 41 is the spec's decision D5, the cursor left its decision D13
(log 15). -/
def Obligations.LastTickCompletesTheTransmission : Prop :=
  ∀ (s : State) (bit : Bool), s.repeatCount.toNat = 1 → slotRead s s.curSlot.toNat = .ok bit → s.curSub.toNat = 41 →
    s.curSlot.toNat + 1 = s.slotCount.toNat →
    exec .tick s = .next { s with
      out := .inactive, timerRun := false, curSub := 0, curSlot := s.slotCount, repeatCount := 0 }

/-- R116: what TICK never writes: every slot, SLOT_COUNT, and all that is not the block's. -/
def Obligations.TickLeavesProgramAndHostAlone : Prop :=
  ∀ s t : State, exec .tick s = .next t →
    (∀ k, slotRead t k = slotRead s k) ∧ t.slotCount = s.slotCount ∧ SameHost s t

/-- R30: every acting TICK brings the end of the transmission one tick nearer. -/
def Obligations.EveryTickAdvancesTheTransmissionByOne : Prop :=
  ∀ s t : State, EngineInv s → s.repeatCount ≠ 0 → exec .tick s = .next t → ticksLeft s = ticksLeft t + 1

/-- R117 to R122: a slot lasts 42 ticks. Over them the line is active exactly on the even sub-ticks of a mark, and never in a
space; before the 42nd the cursor stays in the slot and CUR_SUB counts; the 42nd leaves CUR_SUB at 0 and the line inactive,
and the cursor at the next slot, at slot 0 with one pass fewer to go, or, on the last pass, at SLOT_COUNT in Idle (D5 and D6
give the count and the phase, D13 the last cursor, log 15). -/
def Obligations.OneSlotTakesFortyTwoTicks : Prop :=
  ∀ (s : State) (bit : Bool), EngineInv s → s.repeatCount ≠ 0 → s.schedule = [] → s.curSub = 0 →
    slotRead s s.curSlot.toNat = .ok bit →
    (∀ j, j < 42 → (levelAfter (j + 1) s = .active ↔ bit = true ∧ j % 2 = 0)) ∧
    (∀ j, j < 42 → ∃ t, run j s = .next t ∧ t.curSlot = s.curSlot ∧ t.curSub.toNat = j ∧ t.repeatCount = s.repeatCount) ∧
    ∃ t, run 42 s = .next t ∧ t.curSub = 0 ∧ t.out = .inactive ∧
      (s.curSlot.toNat + 1 < s.slotCount.toNat →
        t.curSlot.toNat = s.curSlot.toNat + 1 ∧ t.repeatCount = s.repeatCount) ∧
      (s.curSlot.toNat + 1 = s.slotCount.toNat → 2 ≤ s.repeatCount.toNat →
        t.curSlot = 0 ∧ t.repeatCount.toNat = s.repeatCount.toNat - 1) ∧
      (s.curSlot.toNat + 1 = s.slotCount.toNat → s.repeatCount = 1 → t.curSlot = s.slotCount ∧ endOfRun t)

/-- R126: a transmission in progress, left to the timer, reaches Idle after exactly the ticks it has left and not before
(the exact count rests on the spec's decision D5, log 15). -/
def Obligations.TransmissionCompletesInBoundedTicks : Prop :=
  ∀ s : State, EngineInv s → s.repeatCount ≠ 0 → s.schedule = [] →
    (∃ t, run (ticksLeft s) s = .next t ∧ endOfRun t ∧ t.curSlot = t.slotCount ∧ t.curSub = 0 ∧ SameHost s t) ∧
    (∀ j, j < ticksLeft s → ∃ u, run j s = .next u ∧ u.repeatCount ≠ 0)

/-- R124, R30: an accepted ARM with count n and repeat r plays exactly 42 × n × r ticks and exactly r × n slot advances, and
then is idle; after j of the ticks it is at sub-tick j mod 42 of slot (j div 42) mod n, with j div (42 × n) passes done. That a
tick takes at once the boundary it reaches is the spec's decision D5, that CUR_SLOT is left at n its decision D13
(log 15). -/
def Obligations.ArmedProgramPlaysItsTicksThenIsIdle : Prop :=
  ∀ (s t : State) (image : SlotImage) (n r : Nat), EngineInv s → s.repeatCount = 0 → s.schedule = [] → acceptable n r →
    exec (.arm image n r) s = .next t →
    (∃ u, run (42 * n * r) t = .next u ∧ endOfRun u ∧ u.curSlot.toNat = n ∧ u.curSub = 0) ∧
    (∀ j, j < 42 * n * r → ∃ u, run j t = .next u ∧ u.repeatCount ≠ 0 ∧ u.repeatCount.toNat + j / (42 * n) = r ∧
      u.curSlot.toNat = j / 42 % n ∧ u.curSub.toNat = j % 42) ∧
    slotAdvances (42 * n * r) t = r * n

/-- R125: the waveform of an accepted ARM: after tick j the line is active exactly when slot `(j div 42) mod n` is a mark
and j is even (the phase is the spec's decision D6, log 15). -/
def Obligations.ArmedProgramGivesTheWaveform : Prop :=
  ∀ (s t : State) (image : SlotImage) (n r j : Nat), EngineInv s → s.repeatCount = 0 → s.schedule = [] → acceptable n r →
    exec (.arm image n r) s = .next t → j < 42 * n * r →
    (levelAfter (j + 1) t = .active ↔ image.getLsbD (j / 42 % n) = true ∧ j % 2 = 0)

/-- R125: the number of active ticks of a transmission is 21 for each mark slot of each pass. -/
def Obligations.ActiveTicksAreTwentyOnePerMark : Prop :=
  ∀ (s t : State) (image : SlotImage) (n r : Nat), EngineInv s → s.repeatCount = 0 → s.schedule = [] → acceptable n r →
    exec (.arm image n r) s = .next t →
    ((List.range (42 * n * r)).countP fun j => levelAfter (j + 1) t == .active) =
      21 * r * (List.range n).countP image.getLsbD

/-! ### ARM, IS_IDLE, STOP -/

/-- R105: an accepted ARM stores every bit of the image, loads the counts, zeroes the cursors, starts the timer, leaves OUT
and everything that is not the block's, and returns Ok. That all 256 bits are copied in one transition is the spec's decision
D9 and the capacity its decision D1 (log 20), the bound 255 of the repeat its decisions D2 and D8 (log 13, log 19); the
canonical form is the model's own (log 1). -/
def Obligations.AcceptedArmLoadsAndStarts : Prop :=
  ∀ (s : State) (image : SlotImage) (n r : Nat), s.repeatCount = 0 → acceptable n r →
    ∃ t, exec (.arm image n r) s = .next t ∧ t.result = .status .ok ∧
      (∀ k, k < 256 → slotRead t k = .ok (image.getLsbD k)) ∧ Memory.wf t.slots = true ∧
      t.slotCount.toNat = n ∧ t.curSlot = 0 ∧ t.curSub = 0 ∧ t.repeatCount.toNat = r ∧ t.timerRun = true ∧
      idle t = false ∧ t.out = s.out ∧ t.buffer = s.buffer ∧ t.schedule = s.schedule ∧ t.hasStop = s.hasStop

/-- R106: ARM while busy returns EngineBusy whatever the operands, and changes nothing. The guard is the spec's decision D7, and
its place before the operand checks its decision D8 (log 19). -/
def Obligations.ArmWhileBusyChangesNothing : Prop :=
  ∀ (s : State) (image : SlotImage) (n r : Nat), s.repeatCount ≠ 0 →
    exec (.arm image n r) s = .next { s with result := .status .engineBusy }

/-- R107: ARM's operand checks on an idle engine, in order: capacity, empty program, repeat; each changes nothing
(the spec's decision D8, log 19). -/
def Obligations.ArmRejectsBadOperandsInOrder : Prop :=
  ∀ (s : State) (image : SlotImage) (n r : Nat), s.repeatCount = 0 →
    (256 < n → exec (.arm image n r) s = .next { s with result := .status .capacityExceeded }) ∧
    (n = 0 → exec (.arm image n r) s = .next { s with result := .status .invalidArgument }) ∧
    (1 ≤ n → n ≤ 256 → (r = 0 ∨ 255 < r) →
      exec (.arm image n r) s = .next { s with result := .status .invalidArgument })

/-- R108: IS_IDLE answers whether REPEAT_COUNT is 0 and writes nothing else. -/
def Obligations.IsIdleAnswersTheFlag : Prop :=
  ∀ s : State, exec .isIdle s = .next { s with result := .answer (decide (s.repeatCount = 0)) }

/-- R109: STOP, where it exists, stops the timer, forces the line inactive and clears REPEAT_COUNT, leaves the cursors and
the program, and returns Ok; in Idle it changes nothing of the block. That the cursors keep their values, and that STOP exists at
all, are the spec's decision D10; the strap is the model's field for it (log 5). -/
def Obligations.StopCutsTheTransmission : Prop :=
  (∀ s : State, s.hasStop = true →
    exec .stop s = .next { s with timerRun := false, out := .inactive, repeatCount := 0, result := .status .ok }) ∧
  (∀ s t : State, EngineInv s → s.hasStop = true → s.repeatCount = 0 → exec .stop s = .next t → SameBlock s t)

/-- R74 (c): the reserved code 0b11, and STOP where HAS_STOP is false, change no state and return InvalidArgument. -/
def Obligations.ReservedOperationsReturnInvalidArgument : Prop :=
  (∀ s : State, s.hasStop = false → exec .stop s = .next { s with result := .status .invalidArgument }) ∧
  (∀ (s : State) (w : CommandWord) (rest : List Turn), s.schedule = .command w :: rest →
    w.getLsbD 0 = true → w.getLsbD 1 = true →
    step s = .next { s with schedule := rest, result := .status .invalidArgument })

/-- R136, R141: every instruction the HOST may issue completes, in every state; and where it returns a status other than Ok
it has changed no state of the block. That every one of them completes rests on log 8 (a pulse symbol that stands alone) and
on log 19 (bad operands, and STOP where HAS_STOP is false, are answered). -/
def Obligations.FailedHostOperationsChangeNoBlockState : Prop :=
  ∀ (i : Instr) (s : State), i.hostIssued = true →
    ∃ t, exec i s = .next t ∧ ∀ st : Status, t.result = .status st → st ≠ .ok → SameBlock s t

/-- R51: a single writer at a time: in Idle TICK writes nothing; while Playing no HOST instruction but STOP writes the block;
SLOTS and SLOT_COUNT are not written at all while Playing. That TICK does nothing in Idle is the spec's decision D11 (R123,
log 4), and that ARM is refused while Playing its decision D7 (R106, log 19). -/
def Obligations.OneWriterAtATime : Prop :=
  (∀ s t : State, s.repeatCount = 0 → exec .tick s = .next t → t = s) ∧
  (∀ (i : Instr) (s t : State), s.repeatCount ≠ 0 → i.hostIssued = true → i ≠ .stop → exec i s = .next t →
    SameBlock s t) ∧
  (∀ (i : Instr) (s t : State), s.repeatCount ≠ 0 → exec i s = .next t →
    (∀ k, slotRead t k = slotRead s k) ∧ t.slotCount = s.slotCount)

/-- R115, R105, R130, R131, R116, R121, R122: Playing is entered only by an accepted ARM (of ARM itself or of a public
operation, which ends in one), and left only by the TICK that completes the last pass or by STOP. That this TICK is the one
that finds CUR_SUB = 41 is the spec's decision D5 (log 15); STOP exists by its decision D10 (log 5). -/
def Obligations.PlayingIsEnteredByArmAndLeftByTickOrStop : Prop :=
  (∀ (i : Instr) (s t : State), exec i s = .next t → s.repeatCount = 0 → t.repeatCount ≠ 0 →
    t.result = .status .ok ∧
      ((∃ image n r, i = .arm image n r) ∨ (∃ st, i = .encodeAndSend st) ∨ (∃ bytes r, i = .sendFixedCommand bytes r))) ∧
  (∀ (i : Instr) (s t : State), exec i s = .next t → s.repeatCount ≠ 0 → t.repeatCount = 0 →
    (i = .tick ∧ s.repeatCount = 1 ∧ s.curSub = 41 ∧ s.curSlot + 1 = s.slotCount) ∨ (i = .stop ∧ s.hasStop = true))

/-- R110, R8: what a HOST instruction returns depends on the block through IDLE alone: two states that agree on IDLE and on
the host's own state, and differ in the cursors, the counts and the program as they will, give the same results. -/
def Obligations.ResultsRevealOnlyIdle : Prop :=
  ∀ (i : Instr) (s t s' t' : State), i.hostIssued = true → idle s = idle t → s.buffer = t.buffer →
    s.result = t.result → s.hasStop = t.hasStop → exec i s = .next s' → exec i t = .next t' →
    s'.result = t'.result ∧ s'.buffer = t'.buffer

/-- R151: of two ARMs issued in Idle the first is accepted and the other returns EngineBusy and changes nothing. -/
def Obligations.SecondOfTwoArmsIsRefused : Prop :=
  ∀ (s t : State) (image image' : SlotImage) (n r n' r' : Nat), s.repeatCount = 0 → acceptable n r →
    exec (.arm image n r) s = .next t →
    t.result = .status .ok ∧ exec (.arm image' n' r') t = .next { t with result := .status .engineBusy }

/-- R144 (b), (d): a HOST operation and the completing tick that fall together, in both orders: ARM before it is refused and
ARM after it is accepted; STOP before it and STOP after it end in the same state but for the cursors, and STOP after it
changes nothing of the block. -/
def Obligations.HostOperationMeetsTheCompletingTick : Prop :=
  ∀ (s : State) (image : SlotImage) (n r : Nat), EngineInv s → acceptable n r → s.repeatCount = 1 → s.curSub = 41 →
    s.curSlot + 1 = s.slotCount →
    (∃ a b, run 2 { s with schedule := [.call (.arm image n r), .tick] } = .next a ∧
      a.result = .status .engineBusy ∧ endOfRun a ∧
      run 2 { s with schedule := [.tick, .call (.arm image n r)] } = .next b ∧
      b.result = .status .ok ∧ b.repeatCount.toNat = r ∧ b.slotCount.toNat = n) ∧
    (s.hasStop = true → ∃ a b c, run 2 { s with schedule := [.call .stop, .tick] } = .next a ∧
      run 2 { s with schedule := [.tick, .call .stop] } = .next b ∧
      run 1 { s with schedule := [.tick, .call .stop] } = .next c ∧
      endOfRun a ∧ endOfRun b ∧ a = { b with curSlot := s.curSlot, curSub := s.curSub } ∧ SameBlock c b)

/-! ### The pulse symbols -/

/-- R68 to R72: the expansions of the pulse symbols, in slot-index order. The length of a BYTE is an inference that R72 marks as
its own. -/
def Obligations.PulseSymbolsExpandToTheirSlots : Prop :=
  encode .start = some (.symbol ([true, true, true, true, true, true, true, true] ++
    [false, false, false, false, false, false, false, false])) ∧
  encode .bit0 = some (.symbol [true, false]) ∧
  encode .bit1 = some (.symbol [true, false, false, false]) ∧
  encode .stopmark = some (.symbol ([true] ++ [false, false, false, false, false, false, false, false])) ∧
  ∀ b : Byte, ∃ vs, encode (.byte b) = some (.symbol vs) ∧ vs.length = 16 + 2 * popcount b ∧
    vs = ([b.getLsbD 7, b.getLsbD 6, b.getLsbD 5, b.getLsbD 4, b.getLsbD 3, b.getLsbD 2, b.getLsbD 1, b.getLsbD 0].map
      fun d => if d then [true, false, false, false] else [true, false]).flatten

/-- R95 (emit): a pulse symbol that fits is written from the next free slot of the host's buffer, which moves past it; no
other slot of the buffer and nothing else of the state changes (that a symbol standing alone extends the host's buffer is
the model's choice, log 8). -/
def Obligations.PulseSymbolIsEmittedIntoTheBuffer : Prop :=
  ∀ (i : Instr) (vs : List Bool) (s : State), encode i = some (.symbol vs) →
    s.buffer.count + vs.length ≤ 256 →
    ∃ b, exec i s = .next { s with buffer := b } ∧ b.count = s.buffer.count + vs.length ∧
      ∀ k, b.bits.getLsbD k =
        if s.buffer.count ≤ k ∧ k < s.buffer.count + vs.length then vs.getD (k - s.buffer.count) false
        else s.buffer.bits.getLsbD k

/-- R97: a pulse symbol that does not fit returns CapacityExceeded; the slots that fit are written and no slot before them
changes, and nothing else of the state changes (log 8). -/
def Obligations.PulseSymbolThatDoesNotFitIsReported : Prop :=
  ∀ (i : Instr) (vs : List Bool) (s : State), encode i = some (.symbol vs) → s.buffer.count ≤ 256 →
    256 < s.buffer.count + vs.length →
    ∃ b, exec i s = .next { s with buffer := b, result := .status .capacityExceeded } ∧ b.count = 256 ∧
      ∀ k, k < 256 → b.bits.getLsbD k =
        if s.buffer.count ≤ k then vs.getD (k - s.buffer.count) false else s.buffer.bits.getLsbD k

/-! ### The host software -/

/-- R82: a disabled state encodes to the fixed off packet, whatever its other fields are. -/
def Obligations.DisabledStateEncodesToTheOffPacket : Prop :=
  ∀ (st : ACState) (s : State), st.enabled = false →
    exec (.encode st) s = .next { s with result := .packet Config.offPacket }

/-- R83: the packet of an enabled state, field by field, packed as R67 says (D19, log 9). -/
def Obligations.EnabledStateEncodesByTheTables : Prop :=
  ∀ (st : ACState) (s : State), st.enabled = true →
    ∃ fan temp : Nibble,
      exec (.encode st) s = .next { s with
        result := .packet ⟨Config.magic, fan ++ Config.stateOn, temp ++ Config.cmdCode st.mode⟩ } ∧
      (st.mode = .auto → fan = Config.fanAuto) ∧ (st.mode ≠ .auto → fan = Config.fanTable st.fanLevel) ∧
      (st.mode = .fan → temp = Config.tempNa) ∧
      (∀ k : Fin 14, st.mode ≠ .fan → st.temperature = 17 + (k.val : Int) → temp = Config.tempTable k) ∧
      (st.mode ≠ .fan → (st.temperature < 17 ∨ 30 < st.temperature) → temp = Config.tempFallback)

/-- R90: FRAME puts each byte's eight-bit complement right after it. -/
def Obligations.FrameAppendsComplements : Prop :=
  ∀ (p : ProtocolPacket) (s : State),
    exec (.frame p) s = .next { s with
      result := .frame ⟨p.p0, p.p0 ^^^ 0xFF, p.p1, p.p1 ^^^ 0xFF, p.p2, p.p2 ^^^ 0xFF⟩ }

/-- R91: the complement invariant of every frame FRAME produces, its 24 one bits, and the 169 slots BUILD makes of it. -/
def Obligations.ProducedFramesHaveTwentyFourOnes : Prop :=
  ∀ (p : ProtocolPacket) (s t : State) (f : RawFrame), exec (.frame p) s = .next t → t.result = .frame f →
    f.f0 ^^^ f.f1 = 0xFF ∧ f.f2 ^^^ f.f3 = 0xFF ∧ f.f4 ^^^ f.f5 = 0xFF ∧ framePopcount f = 24 ∧
    ∃ u b, exec (.build f) t = .next u ∧ u.result = .program b ∧ b.count = 169

/-- R95: BUILD writes START, the six bytes most significant bit first, and STOPMARK from slot 0 of the host's buffer, returns
the program with its count, leaves the slots above it as the reused buffer held them, and changes nothing else. -/
def Obligations.BuildWritesTheFrameProgram : Prop :=
  ∀ (f : RawFrame) (s : State), ∃ b vs, exec (.build f) s = .next { s with buffer := b, result := .program b } ∧
    vs = List.replicate 8 true ++ List.replicate 8 false ++
      ([f.f0, f.f1, f.f2, f.f3, f.f4, f.f5].flatMap fun byte =>
        [7, 6, 5, 4, 3, 2, 1, 0].flatMap fun i => if byte.getLsbD i then [true, false, false, false] else [true, false]) ++
      ([true] ++ List.replicate 8 false) ∧
    b.count = vs.length ∧
    ∀ k, b.bits.getLsbD k = if k < vs.length then vs.getD k false else s.buffer.bits.getLsbD k

/-- R96: the recorded slot count is 121 and two more for each one bit, between 121 and 217; 57 of the slots are marks,
whatever the data. -/
def Obligations.BuiltProgramCounts : Prop :=
  ∀ (f : RawFrame) (s t : State) (b : SlotBuffer), exec (.build f) s = .next t → t.result = .program b →
    b.count = 121 + 2 * framePopcount f ∧ 121 ≤ b.count ∧ b.count ≤ 217 ∧
    (List.range b.count).countP b.bits.getLsbD = 57

/-- R97: with any capacity of at least 217 BUILD never returns CapacityExceeded; with a capacity the program does not fit it
does, and no slot at or above the capacity is written. -/
def Obligations.BuildNeverExceedsAConformantCapacity : Prop :=
  ∀ (capacity : Nat) (f : RawFrame) (b : SlotBuffer), capacity ≤ 256 →
    (217 ≤ capacity → (buildFrame capacity f b).2 = .ok) ∧
    (capacity < 121 + 2 * framePopcount f → (buildFrame capacity f b).2 = .capacityExceeded) ∧
    (∀ k, capacity ≤ k → (buildFrame capacity f b).1.bits.getLsbD k = b.bits.getLsbD k)

/-- R98: the built program is a function of the frame alone: any two buffers give the same count and the same valid
slots. -/
def Obligations.BuildDependsOnTheFrameAlone : Prop :=
  ∀ (f : RawFrame) (s t s' t' : State) (b c : SlotBuffer), exec (.build f) s = .next s' → exec (.build f) t = .next t' →
    s'.result = .program b → t'.result = .program c →
    b.count = c.count ∧ programSlots b.bits b.count = programSlots c.bits c.count

/-- R99: DecodeSlots inverts BUILD, for every six bytes and every reused buffer. -/
def Obligations.DecodeSlotsInvertsBuild : Prop :=
  ∀ (f : RawFrame) (s t : State) (b : SlotBuffer), exec (.build f) s = .next t → t.result = .program b →
    decodeSlots b.bits b.count = some f

/-- R130: ENCODE_AND_SEND on an idle engine plays the 169 slots of the frame of the encoded packet twice and returns Ok; on a
busy engine it returns EngineBusy and leaves the block as it is. The count 169 is an inference that R73 and R130 mark as the
spec's own; EngineBusy is its decision D7 (R106, log 19), the stages before ARM its decision D21 (log 21). -/
def Obligations.EncodeAndSendArmsTwoPasses : Prop :=
  ∀ (st : ACState) (s : State),
    (s.repeatCount = 0 → ∃ t, exec (.encodeAndSend st) s = .next t ∧ t.result = .status .ok ∧
      t.slotCount = 169 ∧ t.repeatCount = 2 ∧ t.curSlot = 0 ∧ t.curSub = 0 ∧ t.timerRun = true ∧ t.out = s.out ∧
      t.schedule = s.schedule ∧ t.hasStop = s.hasStop ∧
      (∀ k, k < 169 → slotRead t k = .ok ((frameSlots (framePacket (encodePacket st))).getD k false)) ∧
      decodeSlots t.buffer.bits t.buffer.count = some (framePacket (encodePacket st))) ∧
    (s.repeatCount ≠ 0 → ∃ t, exec (.encodeAndSend st) s = .next t ∧ t.result = .status .engineBusy ∧ SameBlock s t ∧
      t.schedule = s.schedule ∧ t.hasStop = s.hasStop)

/-- R131: SEND_FIXED_COMMAND frames the three bytes, builds 169 slots and arms them with the given repeat count: accepted in
Idle for 1..255, InvalidArgument in Idle for any other count, EngineBusy while Playing. The count 169 is an inference that R73 marks as the
spec's own; the operand passed on unchanged is its decision D22 (log 21), EngineBusy its decision D7 and InvalidArgument its
decision D8 (log 19). -/
def Obligations.SendFixedCommandArmsTheGivenRepeat : Prop :=
  ∀ (p : ProtocolPacket) (r : Nat) (s : State),
    (s.repeatCount = 0 → 1 ≤ r → r ≤ 255 → ∃ t, exec (.sendFixedCommand p r) s = .next t ∧ t.result = .status .ok ∧
      t.slotCount = 169 ∧ t.repeatCount.toNat = r ∧ t.curSlot = 0 ∧ t.curSub = 0 ∧ t.timerRun = true ∧ t.out = s.out ∧
      t.schedule = s.schedule ∧ t.hasStop = s.hasStop ∧
      (∀ k, k < 169 → slotRead t k = .ok ((frameSlots (framePacket p)).getD k false))) ∧
    (s.repeatCount = 0 → (r = 0 ∨ 255 < r) → ∃ t, exec (.sendFixedCommand p r) s = .next t ∧
      t.result = .status .invalidArgument ∧ SameBlock s t ∧ t.schedule = s.schedule ∧ t.hasStop = s.hasStop) ∧
    (s.repeatCount ≠ 0 → ∃ t, exec (.sendFixedCommand p r) s = .next t ∧ t.result = .status .engineBusy ∧
      SameBlock s t ∧ t.schedule = s.schedule ∧ t.hasStop = s.hasStop)

/-- R82, R83, R90, R95, R108: the frame of the instructions that read or write nothing of the block: IS_IDLE, the pulse
symbols, ENCODE, FRAME and BUILD leave every slot and every register of the block, the turns to come and the strap; all but
the pulse symbols and BUILD leave the host's buffer too. -/
def Obligations.HostSoftwareLeavesTheBlockAlone : Prop :=
  ∀ (i : Instr) (s t : State), i.hostIssued = true → (∀ image n r, i ≠ .arm image n r) → i ≠ .stop →
    (∀ st, i ≠ .encodeAndSend st) → (∀ p r, i ≠ .sendFixedCommand p r) → exec i s = .next t →
    SameBlock s t ∧ (∀ k, slotRead t k = slotRead s k) ∧ t.schedule = s.schedule ∧ t.hasStop = s.hasStop ∧
    ((i = .isIdle ∨ (∃ st, i = .encode st) ∨ ∃ p, i = .frame p) → t.buffer = s.buffer)

/-- R130, R124, R125, R170: ENCODE_AND_SEND on an idle engine, left to the timer, takes exactly 14196 ticks to Idle, and the
line gives the frame's 169 slots twice, 42 ticks a slot, active on the even ticks of its marks (the exact count and the
phase rest on the spec's decisions D5 and D6, log 15). -/
def Obligations.EncodeAndSendPlaysTheFrameTwice : Prop :=
  ∀ (st : ACState) (s t : State), EngineInv s → s.repeatCount = 0 → s.schedule = [] →
    exec (.encodeAndSend st) s = .next t →
    (∃ u, run 14196 t = .next u ∧ endOfRun u) ∧
    ∀ j, j < 14196 → (∃ u, run j t = .next u ∧ u.repeatCount ≠ 0) ∧
      (levelAfter (j + 1) t = .active ↔
        (frameSlots (framePacket (encodePacket st))).getD (j / 42 % 169) false = true ∧ j % 2 = 0)

/-- R139, R84: no instruction of the HOST returns InvalidState: where that is the result after it, it was the result
before. -/
def Obligations.InvalidStateIsNeverReturned : Prop :=
  ∀ (i : Instr) (s t : State), i.hostIssued = true → exec i s = .next t → t.result = .status .invalidState →
    s.result = .status .invalidState

/-! ### Encodings -/

/-- R61, R63, R68 to R72, R75: decoding the encoding of a well-formed instruction gives it back, with every operand at every
value its fields admit. -/
def Obligations.DecodeInvertsEncode : Prop :=
  ∀ (i : Instr) (e : Encoded), i.wf = true → encode i = some e → decode e = .ok i

/-- R63: the fields of the command word: op in bits 1:0 selects the operation, repeat is bits 9:2, slot_count bits 18:10 and
SLOTS[k] bit 19 + k; the operand bits of IS_IDLE and STOP are ignored, and op 0b11 is reserved (the spec's decision D14,
log 23). -/
def Obligations.CommandWordFieldsAreRead : Prop :=
  ∀ w : CommandWord,
    (w.toNat % 4 = 0 → decode (.command w) = .ok .isIdle) ∧
    (w.toNat % 4 = 1 → ∃ slots, decode (.command w) = .ok (.arm slots (w.toNat / 2 ^ 10 % 2 ^ 9) (w.toNat / 2 ^ 2 % 2 ^ 8)) ∧
      ∀ k, k < 256 → slots.getLsbD k = w.getLsbD (19 + k)) ∧
    (w.toNat % 4 = 2 → decode (.command w) = .ok .stop) ∧
    (w.toNat % 4 = 3 → decode (.command w) = .error .reservedOperation)

/-- R44, R62: in the byte image of a slot program slot k is bit k mod 8 of byte k div 8; the image has 32 bytes and they
give it back (the spec's decision D15, log 23). -/
def Obligations.ByteImagePacksEightSlotsAByte : Prop :=
  ∀ image : SlotImage, (imageBytes image).length = 32 ∧
    (∀ k, k < 256 → ((imageBytes image).getD (k / 8) 0).getLsbD (k % 8) = image.getLsbD k) ∧
    imageOfBytes (imageBytes image) = image

/-- R76: the slots of every token, Mn and Sn being n marks and n spaces (M and S with n = 1); a listing is its tokens' slots in
order; a listed ARM carries them in slot-index order and their number as the count; a script line stands for its operation
or its ticks; and the listing `FRAME p` stands for the program BUILD makes of p's frame (the spec's decision D23, log 23). -/
def Obligations.ListedProgramIsArmedAsWritten : Prop :=
  (∀ n, tokenSlots (.marks n) = List.replicate n true ∧ tokenSlots (.spaces n) = List.replicate n false) ∧
  tokenSlots .start = List.replicate 8 true ++ List.replicate 8 false ∧
  tokenSlots .bit0 = [true, false] ∧
  tokenSlots .bit1 = [true, false, false, false] ∧
  (∀ b : Byte, tokenSlots (.byte b) =
    [7, 6, 5, 4, 3, 2, 1, 0].flatMap fun i => if b.getLsbD i then [true, false, false, false] else [true, false]) ∧
  tokenSlots .stopmark = true :: List.replicate 8 false ∧
  (∀ p : ProtocolPacket, tokenSlots (.frame p) = listingSlots [.start, .byte p.p0, .byte (p.p0 ^^^ 0xFF), .byte p.p1,
    .byte (p.p1 ^^^ 0xFF), .byte p.p2, .byte (p.p2 ^^^ 0xFF), .stopmark]) ∧
  (listingSlots [] = [] ∧ ∀ (token : Token) (rest : List Token),
    listingSlots (token :: rest) = tokenSlots token ++ listingSlots rest) ∧
  (∀ (program : List Token) (r : Nat), lineTurns (.arm program r) = [.call (armListing program r)]) ∧
  (lineTurns .isIdle = [.call .isIdle] ∧ lineTurns .stop = [.call .stop] ∧
    ∀ n, lineTurns (.ticks n) = List.replicate n .tick) ∧
  (∀ (program : List Token) (r : Nat), (listingSlots program).length ≤ 256 →
    ∃ image, armListing program r = .arm image (listingSlots program).length r ∧
      programSlots image (listingSlots program).length = listingSlots program) ∧
  (∀ (p : ProtocolPacket) (s t : State) (b : SlotBuffer), exec (.build (framePacket p)) s = .next t →
    t.result = .program b → programSlots b.bits b.count = listingSlots [.frame p])

/-- R61, R63, R68, R71: a few words written out from the tables decode to the instructions they stand for. -/
def Obligations.SampleWordsDecode : Prop :=
  decode (.slot true) = .ok .mark ∧ decode (.slot false) = .ok .space ∧
  decode (.command 0b00) = .ok .isIdle ∧ decode (.command 0b10) = .ok .stop ∧
  decode (.command 0b0_1_000000010_00000001_01) = .ok (.arm 0b01 2 1) ∧
  decode (.symbol [true, true, true, true, true, true, true, true, false, false, false, false, false, false, false, false]) =
    .ok .start ∧
  decode (.symbol [true, false, false, false, false, false, false, false, false]) = .ok .stopmark
end

