-- ==== Sys2Proof/Laws/State.lean ====
section
/-! SUPPORT. What each named update of the state does to each field, one equation a field. -/

namespace Sys2Proof.Machine

@[simp] theorem timerStart_slots (s : State) : (timerStart s).slots = s.slots := rfl
@[simp] theorem timerStart_slotCount (s : State) : (timerStart s).slotCount = s.slotCount := rfl
@[simp] theorem timerStart_repeatCount (s : State) : (timerStart s).repeatCount = s.repeatCount := rfl
@[simp] theorem timerStart_curSlot (s : State) : (timerStart s).curSlot = s.curSlot := rfl
@[simp] theorem timerStart_curSub (s : State) : (timerStart s).curSub = s.curSub := rfl
@[simp] theorem timerStart_timerRun (s : State) : (timerStart s).timerRun = true := rfl
@[simp] theorem timerStart_out (s : State) : (timerStart s).out = s.out := rfl
@[simp] theorem timerStart_buffer (s : State) : (timerStart s).buffer = s.buffer := rfl
@[simp] theorem timerStart_result (s : State) : (timerStart s).result = s.result := rfl
@[simp] theorem timerStart_schedule (s : State) : (timerStart s).schedule = s.schedule := rfl
@[simp] theorem timerStart_hasStop (s : State) : (timerStart s).hasStop = s.hasStop := rfl

@[simp] theorem timerStop_slots (s : State) : (timerStop s).slots = s.slots := rfl
@[simp] theorem timerStop_slotCount (s : State) : (timerStop s).slotCount = s.slotCount := rfl
@[simp] theorem timerStop_repeatCount (s : State) : (timerStop s).repeatCount = s.repeatCount := rfl
@[simp] theorem timerStop_curSlot (s : State) : (timerStop s).curSlot = s.curSlot := rfl
@[simp] theorem timerStop_curSub (s : State) : (timerStop s).curSub = s.curSub := rfl
@[simp] theorem timerStop_timerRun (s : State) : (timerStop s).timerRun = false := rfl
@[simp] theorem timerStop_out (s : State) : (timerStop s).out = s.out := rfl
@[simp] theorem timerStop_buffer (s : State) : (timerStop s).buffer = s.buffer := rfl
@[simp] theorem timerStop_result (s : State) : (timerStop s).result = s.result := rfl
@[simp] theorem timerStop_schedule (s : State) : (timerStop s).schedule = s.schedule := rfl
@[simp] theorem timerStop_hasStop (s : State) : (timerStop s).hasStop = s.hasStop := rfl

@[simp] theorem setOut_slots (l : Level) (s : State) : (setOut l s).slots = s.slots := rfl
@[simp] theorem setOut_slotCount (l : Level) (s : State) : (setOut l s).slotCount = s.slotCount := rfl
@[simp] theorem setOut_repeatCount (l : Level) (s : State) : (setOut l s).repeatCount = s.repeatCount := rfl
@[simp] theorem setOut_curSlot (l : Level) (s : State) : (setOut l s).curSlot = s.curSlot := rfl
@[simp] theorem setOut_curSub (l : Level) (s : State) : (setOut l s).curSub = s.curSub := rfl
@[simp] theorem setOut_timerRun (l : Level) (s : State) : (setOut l s).timerRun = s.timerRun := rfl
@[simp] theorem setOut_out (l : Level) (s : State) : (setOut l s).out = l := rfl
@[simp] theorem setOut_buffer (l : Level) (s : State) : (setOut l s).buffer = s.buffer := rfl
@[simp] theorem setOut_result (l : Level) (s : State) : (setOut l s).result = s.result := rfl
@[simp] theorem setOut_schedule (l : Level) (s : State) : (setOut l s).schedule = s.schedule := rfl
@[simp] theorem setOut_hasStop (l : Level) (s : State) : (setOut l s).hasStop = s.hasStop := rfl

@[simp] theorem returnResult_slots (r : Result) (s : State) : (returnResult r s).slots = s.slots := rfl
@[simp] theorem returnResult_slotCount (r : Result) (s : State) : (returnResult r s).slotCount = s.slotCount := rfl
@[simp] theorem returnResult_repeatCount (r : Result) (s : State) : (returnResult r s).repeatCount = s.repeatCount := rfl
@[simp] theorem returnResult_curSlot (r : Result) (s : State) : (returnResult r s).curSlot = s.curSlot := rfl
@[simp] theorem returnResult_curSub (r : Result) (s : State) : (returnResult r s).curSub = s.curSub := rfl
@[simp] theorem returnResult_timerRun (r : Result) (s : State) : (returnResult r s).timerRun = s.timerRun := rfl
@[simp] theorem returnResult_out (r : Result) (s : State) : (returnResult r s).out = s.out := rfl
@[simp] theorem returnResult_buffer (r : Result) (s : State) : (returnResult r s).buffer = s.buffer := rfl
@[simp] theorem returnResult_result (r : Result) (s : State) : (returnResult r s).result = r := rfl
@[simp] theorem returnResult_schedule (r : Result) (s : State) : (returnResult r s).schedule = s.schedule := rfl
@[simp] theorem returnResult_hasStop (r : Result) (s : State) : (returnResult r s).hasStop = s.hasStop := rfl

@[simp] theorem returnStatus_slots (st : Status) (s : State) : (returnStatus st s).slots = s.slots := rfl
@[simp] theorem returnStatus_slotCount (st : Status) (s : State) : (returnStatus st s).slotCount = s.slotCount := rfl
@[simp] theorem returnStatus_repeatCount (st : Status) (s : State) : (returnStatus st s).repeatCount = s.repeatCount := rfl
@[simp] theorem returnStatus_curSlot (st : Status) (s : State) : (returnStatus st s).curSlot = s.curSlot := rfl
@[simp] theorem returnStatus_curSub (st : Status) (s : State) : (returnStatus st s).curSub = s.curSub := rfl
@[simp] theorem returnStatus_timerRun (st : Status) (s : State) : (returnStatus st s).timerRun = s.timerRun := rfl
@[simp] theorem returnStatus_out (st : Status) (s : State) : (returnStatus st s).out = s.out := rfl
@[simp] theorem returnStatus_buffer (st : Status) (s : State) : (returnStatus st s).buffer = s.buffer := rfl
@[simp] theorem returnStatus_result (st : Status) (s : State) : (returnStatus st s).result = .status st := rfl
@[simp] theorem returnStatus_schedule (st : Status) (s : State) : (returnStatus st s).schedule = s.schedule := rfl
@[simp] theorem returnStatus_hasStop (st : Status) (s : State) : (returnStatus st s).hasStop = s.hasStop := rfl

@[simp] theorem setBuffer_slots (b : SlotBuffer) (s : State) : (setBuffer b s).slots = s.slots := rfl
@[simp] theorem setBuffer_slotCount (b : SlotBuffer) (s : State) : (setBuffer b s).slotCount = s.slotCount := rfl
@[simp] theorem setBuffer_repeatCount (b : SlotBuffer) (s : State) : (setBuffer b s).repeatCount = s.repeatCount := rfl
@[simp] theorem setBuffer_curSlot (b : SlotBuffer) (s : State) : (setBuffer b s).curSlot = s.curSlot := rfl
@[simp] theorem setBuffer_curSub (b : SlotBuffer) (s : State) : (setBuffer b s).curSub = s.curSub := rfl
@[simp] theorem setBuffer_timerRun (b : SlotBuffer) (s : State) : (setBuffer b s).timerRun = s.timerRun := rfl
@[simp] theorem setBuffer_out (b : SlotBuffer) (s : State) : (setBuffer b s).out = s.out := rfl
@[simp] theorem setBuffer_buffer (b : SlotBuffer) (s : State) : (setBuffer b s).buffer = b := rfl
@[simp] theorem setBuffer_result (b : SlotBuffer) (s : State) : (setBuffer b s).result = s.result := rfl
@[simp] theorem setBuffer_schedule (b : SlotBuffer) (s : State) : (setBuffer b s).schedule = s.schedule := rfl
@[simp] theorem setBuffer_hasStop (b : SlotBuffer) (s : State) : (setBuffer b s).hasStop = s.hasStop := rfl

@[simp] theorem slotStoreAll_slots (im : SlotImage) (s : State) : (slotStoreAll im s).slots = storedCells im := rfl
@[simp] theorem slotStoreAll_slotCount (im : SlotImage) (s : State) : (slotStoreAll im s).slotCount = s.slotCount := rfl
@[simp] theorem slotStoreAll_repeatCount (im : SlotImage) (s : State) : (slotStoreAll im s).repeatCount = s.repeatCount := rfl
@[simp] theorem slotStoreAll_curSlot (im : SlotImage) (s : State) : (slotStoreAll im s).curSlot = s.curSlot := rfl
@[simp] theorem slotStoreAll_curSub (im : SlotImage) (s : State) : (slotStoreAll im s).curSub = s.curSub := rfl
@[simp] theorem slotStoreAll_timerRun (im : SlotImage) (s : State) : (slotStoreAll im s).timerRun = s.timerRun := rfl
@[simp] theorem slotStoreAll_out (im : SlotImage) (s : State) : (slotStoreAll im s).out = s.out := rfl
@[simp] theorem slotStoreAll_buffer (im : SlotImage) (s : State) : (slotStoreAll im s).buffer = s.buffer := rfl
@[simp] theorem slotStoreAll_result (im : SlotImage) (s : State) : (slotStoreAll im s).result = s.result := rfl
@[simp] theorem slotStoreAll_schedule (im : SlotImage) (s : State) : (slotStoreAll im s).schedule = s.schedule := rfl
@[simp] theorem slotStoreAll_hasStop (im : SlotImage) (s : State) : (slotStoreAll im s).hasStop = s.hasStop := rfl

@[simp] theorem loadProgram_slots (im : SlotImage) (n r : Nat) (s : State) : (loadProgram im n r s).slots = storedCells im := rfl
@[simp] theorem loadProgram_slotCount (im : SlotImage) (n r : Nat) (s : State) : (loadProgram im n r s).slotCount = BitVec.ofNat 9 n := rfl
@[simp] theorem loadProgram_repeatCount (im : SlotImage) (n r : Nat) (s : State) : (loadProgram im n r s).repeatCount = BitVec.ofNat 8 r := rfl
@[simp] theorem loadProgram_curSlot (im : SlotImage) (n r : Nat) (s : State) : (loadProgram im n r s).curSlot = 0 := rfl
@[simp] theorem loadProgram_curSub (im : SlotImage) (n r : Nat) (s : State) : (loadProgram im n r s).curSub = 0 := rfl
@[simp] theorem loadProgram_timerRun (im : SlotImage) (n r : Nat) (s : State) : (loadProgram im n r s).timerRun = true := rfl
@[simp] theorem loadProgram_out (im : SlotImage) (n r : Nat) (s : State) : (loadProgram im n r s).out = s.out := rfl
@[simp] theorem loadProgram_buffer (im : SlotImage) (n r : Nat) (s : State) : (loadProgram im n r s).buffer = s.buffer := rfl
@[simp] theorem loadProgram_result (im : SlotImage) (n r : Nat) (s : State) : (loadProgram im n r s).result = s.result := rfl
@[simp] theorem loadProgram_schedule (im : SlotImage) (n r : Nat) (s : State) : (loadProgram im n r s).schedule = s.schedule := rfl
@[simp] theorem loadProgram_hasStop (im : SlotImage) (n r : Nat) (s : State) : (loadProgram im n r s).hasStop = s.hasStop := rfl

@[simp] theorem driveMark_slots (s : State) : (driveMark s).slots = s.slots := rfl
@[simp] theorem driveMark_slotCount (s : State) : (driveMark s).slotCount = s.slotCount := rfl
@[simp] theorem driveMark_repeatCount (s : State) : (driveMark s).repeatCount = s.repeatCount := rfl
@[simp] theorem driveMark_curSlot (s : State) : (driveMark s).curSlot = s.curSlot := rfl
@[simp] theorem driveMark_curSub (s : State) : (driveMark s).curSub = s.curSub := rfl
@[simp] theorem driveMark_timerRun (s : State) : (driveMark s).timerRun = s.timerRun := rfl
@[simp] theorem driveMark_out (s : State) : (driveMark s).out = if evenSubTick s then .active else .inactive := rfl
@[simp] theorem driveMark_buffer (s : State) : (driveMark s).buffer = s.buffer := rfl
@[simp] theorem driveMark_result (s : State) : (driveMark s).result = s.result := rfl
@[simp] theorem driveMark_schedule (s : State) : (driveMark s).schedule = s.schedule := rfl
@[simp] theorem driveMark_hasStop (s : State) : (driveMark s).hasStop = s.hasStop := rfl

@[simp] theorem driveSpace_slots (s : State) : (driveSpace s).slots = s.slots := rfl
@[simp] theorem driveSpace_slotCount (s : State) : (driveSpace s).slotCount = s.slotCount := rfl
@[simp] theorem driveSpace_repeatCount (s : State) : (driveSpace s).repeatCount = s.repeatCount := rfl
@[simp] theorem driveSpace_curSlot (s : State) : (driveSpace s).curSlot = s.curSlot := rfl
@[simp] theorem driveSpace_curSub (s : State) : (driveSpace s).curSub = s.curSub := rfl
@[simp] theorem driveSpace_timerRun (s : State) : (driveSpace s).timerRun = s.timerRun := rfl
@[simp] theorem driveSpace_out (s : State) : (driveSpace s).out = .inactive := rfl
@[simp] theorem driveSpace_buffer (s : State) : (driveSpace s).buffer = s.buffer := rfl
@[simp] theorem driveSpace_result (s : State) : (driveSpace s).result = s.result := rfl
@[simp] theorem driveSpace_schedule (s : State) : (driveSpace s).schedule = s.schedule := rfl
@[simp] theorem driveSpace_hasStop (s : State) : (driveSpace s).hasStop = s.hasStop := rfl

@[simp] theorem completeTransmission_slots (s : State) : (completeTransmission s).slots = s.slots := rfl
@[simp] theorem completeTransmission_slotCount (s : State) : (completeTransmission s).slotCount = s.slotCount := rfl
@[simp] theorem completeTransmission_repeatCount (s : State) : (completeTransmission s).repeatCount = s.repeatCount - 1 := rfl
@[simp] theorem completeTransmission_curSlot (s : State) : (completeTransmission s).curSlot = s.curSlot + 1 := rfl
@[simp] theorem completeTransmission_curSub (s : State) : (completeTransmission s).curSub = 0 := rfl
@[simp] theorem completeTransmission_timerRun (s : State) : (completeTransmission s).timerRun = false := rfl
@[simp] theorem completeTransmission_out (s : State) : (completeTransmission s).out = .inactive := rfl
@[simp] theorem completeTransmission_buffer (s : State) : (completeTransmission s).buffer = s.buffer := rfl
@[simp] theorem completeTransmission_result (s : State) : (completeTransmission s).result = s.result := rfl
@[simp] theorem completeTransmission_schedule (s : State) : (completeTransmission s).schedule = s.schedule := rfl
@[simp] theorem completeTransmission_hasStop (s : State) : (completeTransmission s).hasStop = s.hasStop := rfl

@[simp] theorem replayPass_slots (s : State) : (replayPass s).slots = s.slots := rfl
@[simp] theorem replayPass_slotCount (s : State) : (replayPass s).slotCount = s.slotCount := rfl
@[simp] theorem replayPass_repeatCount (s : State) : (replayPass s).repeatCount = s.repeatCount - 1 := rfl
@[simp] theorem replayPass_curSlot (s : State) : (replayPass s).curSlot = 0 := rfl
@[simp] theorem replayPass_curSub (s : State) : (replayPass s).curSub = 0 := rfl
@[simp] theorem replayPass_timerRun (s : State) : (replayPass s).timerRun = s.timerRun := rfl
@[simp] theorem replayPass_out (s : State) : (replayPass s).out = s.out := rfl
@[simp] theorem replayPass_buffer (s : State) : (replayPass s).buffer = s.buffer := rfl
@[simp] theorem replayPass_result (s : State) : (replayPass s).result = s.result := rfl
@[simp] theorem replayPass_schedule (s : State) : (replayPass s).schedule = s.schedule := rfl
@[simp] theorem replayPass_hasStop (s : State) : (replayPass s).hasStop = s.hasStop := rfl

@[simp] theorem nextSlot_slots (s : State) : (nextSlot s).slots = s.slots := rfl
@[simp] theorem nextSlot_slotCount (s : State) : (nextSlot s).slotCount = s.slotCount := rfl
@[simp] theorem nextSlot_repeatCount (s : State) : (nextSlot s).repeatCount = s.repeatCount := rfl
@[simp] theorem nextSlot_curSlot (s : State) : (nextSlot s).curSlot = s.curSlot + 1 := rfl
@[simp] theorem nextSlot_curSub (s : State) : (nextSlot s).curSub = 0 := rfl
@[simp] theorem nextSlot_timerRun (s : State) : (nextSlot s).timerRun = s.timerRun := rfl
@[simp] theorem nextSlot_out (s : State) : (nextSlot s).out = s.out := rfl
@[simp] theorem nextSlot_buffer (s : State) : (nextSlot s).buffer = s.buffer := rfl
@[simp] theorem nextSlot_result (s : State) : (nextSlot s).result = s.result := rfl
@[simp] theorem nextSlot_schedule (s : State) : (nextSlot s).schedule = s.schedule := rfl
@[simp] theorem nextSlot_hasStop (s : State) : (nextSlot s).hasStop = s.hasStop := rfl

@[simp] theorem nextSubTick_slots (s : State) : (nextSubTick s).slots = s.slots := rfl
@[simp] theorem nextSubTick_slotCount (s : State) : (nextSubTick s).slotCount = s.slotCount := rfl
@[simp] theorem nextSubTick_repeatCount (s : State) : (nextSubTick s).repeatCount = s.repeatCount := rfl
@[simp] theorem nextSubTick_curSlot (s : State) : (nextSubTick s).curSlot = s.curSlot := rfl
@[simp] theorem nextSubTick_curSub (s : State) : (nextSubTick s).curSub = s.curSub + 1 := rfl
@[simp] theorem nextSubTick_timerRun (s : State) : (nextSubTick s).timerRun = s.timerRun := rfl
@[simp] theorem nextSubTick_out (s : State) : (nextSubTick s).out = s.out := rfl
@[simp] theorem nextSubTick_buffer (s : State) : (nextSubTick s).buffer = s.buffer := rfl
@[simp] theorem nextSubTick_result (s : State) : (nextSubTick s).result = s.result := rfl
@[simp] theorem nextSubTick_schedule (s : State) : (nextSubTick s).schedule = s.schedule := rfl
@[simp] theorem nextSubTick_hasStop (s : State) : (nextSubTick s).hasStop = s.hasStop := rfl

@[simp] theorem stopEngine_slots (s : State) : (stopEngine s).slots = s.slots := rfl
@[simp] theorem stopEngine_slotCount (s : State) : (stopEngine s).slotCount = s.slotCount := rfl
@[simp] theorem stopEngine_repeatCount (s : State) : (stopEngine s).repeatCount = 0 := rfl
@[simp] theorem stopEngine_curSlot (s : State) : (stopEngine s).curSlot = s.curSlot := rfl
@[simp] theorem stopEngine_curSub (s : State) : (stopEngine s).curSub = s.curSub := rfl
@[simp] theorem stopEngine_timerRun (s : State) : (stopEngine s).timerRun = false := rfl
@[simp] theorem stopEngine_out (s : State) : (stopEngine s).out = .inactive := rfl
@[simp] theorem stopEngine_buffer (s : State) : (stopEngine s).buffer = s.buffer := rfl
@[simp] theorem stopEngine_result (s : State) : (stopEngine s).result = .status .ok := rfl
@[simp] theorem stopEngine_schedule (s : State) : (stopEngine s).schedule = s.schedule := rfl
@[simp] theorem stopEngine_hasStop (s : State) : (stopEngine s).hasStop = s.hasStop := rfl

@[simp] theorem powerUpState_slots (s : State) : (powerUpState s).slots = [] := rfl
@[simp] theorem powerUpState_slotCount (s : State) : (powerUpState s).slotCount = 0 := rfl
@[simp] theorem powerUpState_repeatCount (s : State) : (powerUpState s).repeatCount = 0 := rfl
@[simp] theorem powerUpState_curSlot (s : State) : (powerUpState s).curSlot = 0 := rfl
@[simp] theorem powerUpState_curSub (s : State) : (powerUpState s).curSub = 0 := rfl
@[simp] theorem powerUpState_timerRun (s : State) : (powerUpState s).timerRun = false := rfl
@[simp] theorem powerUpState_out (s : State) : (powerUpState s).out = .inactive := rfl
@[simp] theorem powerUpState_buffer (s : State) : (powerUpState s).buffer = { bits := 0, count := 0 } := rfl
@[simp] theorem powerUpState_result (s : State) : (powerUpState s).result = .nothing := rfl
@[simp] theorem powerUpState_schedule (s : State) : (powerUpState s).schedule = s.schedule := rfl
@[simp] theorem powerUpState_hasStop (s : State) : (powerUpState s).hasStop = s.hasStop := rfl

/-! ### The drive of a fetched symbol -/

@[simp] theorem driveSymbol_true (s : State) : driveSymbol true s = driveMark s := rfl
@[simp] theorem driveSymbol_false (s : State) : driveSymbol false s = driveSpace s := rfl

/-- The drive of a symbol is one write of the line. -/
theorem driveSymbol_eq (bit : Bool) (s : State) :
    driveSymbol bit s = setOut (if bit && evenSubTick s then .active else .inactive) s := by
  cases bit <;> rfl

end Sys2Proof.Machine
end

