-- ==== Sys2Proof/Laws/Memory.lean ====
section
/-! SUPPORT. The slot space: reading after writing, and the canonical form. -/

namespace Sys2Proof.Machine

/-- What is read from cells made by a function of the index. -/
theorem slotLookup_map (f : Nat → Bool) (ks : List Nat) (k : Nat) :
    slotLookup (ks.map fun j => (j, f j)) k = if k ∈ ks then some (f k) else none := by
  induction ks with
  | nil => simp [slotLookup]
  | cons a rest ih =>
    by_cases h : a = k
    · subst h; simp [slotLookup]
    · simp [slotLookup, h, ih, Ne.symm h]

/-- After `SlotStoreAll` every location reads as its bit of the image (R105). -/
theorem slotLookup_storedCells (image : SlotImage) (k : Nat) :
    slotLookup (storedCells image) k = if k < Config.slotCapacity then some (image.getLsbD k) else none := by
  simp [storedCells, slotLookup_map image.getLsbD]

/-- A slot just set reads as it was set, every other slot as before. -/
theorem slotLookup_setCell (k : Nat) (b : Bool) (m : List SlotCell) (j : Nat) :
    slotLookup (setCell k b m) j = if j = k then some b else slotLookup m j := by
  induction m with
  | nil => by_cases h : j = k <;> simp [setCell, slotLookup, h, Ne.symm]
  | cons c rest ih =>
    obtain ⟨a, c⟩ := c
    unfold setCell
    split
    · by_cases h : j = k
      · simp [slotLookup, h]
      · simp [slotLookup, h, Ne.symm h]
    · split
      · subst a; by_cases h : j = k
        · simp [slotLookup, h]
        · simp [slotLookup, h, Ne.symm h]
      · by_cases h : j = a
        · subst h; simp [slotLookup, Ne.symm, *]
        · simp [slotLookup, Ne.symm h, ih]

/-- Cells over rising indices of the slot space are in canonical form. -/
theorem wf_map_range' (f : Nat → Bool) (start n : Nat) (h : start + n ≤ Config.slotCapacity) :
    Memory.wf ((List.range' start n).map fun k => (k, f k)) = true := by
  induction n generalizing start with
  | zero => rfl
  | succ n ih =>
    cases n with
    | zero => simp [Memory.wf]; omega
    | succ n =>
      have := ih (start + 1) (by omega)
      simp [List.range'_succ, Memory.wf] at this ⊢
      exact this

/-- `SlotStoreAll` leaves the slot space in canonical form, whatever it held. -/
theorem wf_storedCells (image : SlotImage) : Memory.wf (storedCells image) = true := by
  rw [storedCells, List.range_eq_range']
  exact wf_map_range' image.getLsbD 0 _ (by simp)

/-- Setting a location of the slot space keeps the canonical form. -/
theorem wf_setCell (k : Nat) (b : Bool) (m : List SlotCell) (hk : k < Config.slotCapacity) (hm : Memory.wf m = true) :
    Memory.wf (setCell k b m) = true := by
  induction m with
  | nil => simpa [setCell, Memory.wf] using hk
  | cons c rest ih =>
    obtain ⟨a, c⟩ := c
    cases rest with
    | nil =>
      simp only [Memory.wf, decide_eq_true_eq] at hm
      simp only [setCell]
      split
      · simp [Memory.wf]; omega
      · split <;> simp [Memory.wf] <;> omega
    | cons d more =>
      obtain ⟨a', d⟩ := d
      simp only [Memory.wf, Bool.and_eq_true, decide_eq_true_eq] at hm
      have := ih hm.2
      by_cases h1 : k < a
      · simp [setCell, h1, Memory.wf, hm.1, hm.2]
      · by_cases h2 : k = a
        · subst h2; simp [setCell, Memory.wf, hm.1, hm.2]
        · by_cases h3 : k < a'
          · simp [setCell, h1, h2, h3, Memory.wf, hm.2]; omega
          · by_cases h4 : k = a'
            · subst h4
              rw [setCell, if_neg h3, if_pos rfl] at this
              rw [setCell, if_neg h1, if_neg h2, setCell, if_neg h3, if_pos rfl]
              simp only [Memory.wf, hm.1, this, decide_true, Bool.and_self]
            · rw [setCell, if_neg h3, if_neg h4] at this
              rw [setCell, if_neg h1, if_neg h2, setCell, if_neg h3, if_neg h4]
              simp only [Memory.wf, hm.1, this, decide_true, Bool.and_self]

/-- `SlotRead` answers a bit exactly for a written location of the slot space (R46, R47). -/
theorem slotRead_eq_ok_iff (s : State) (k : Nat) (b : Bool) :
    slotRead s k = .ok b ↔ k < Config.slotCapacity ∧ slotLookup s.slots k = some b := by
  unfold slotRead
  split
  · simp; omega
  · split <;> simp_all

/-- `SlotRead` depends on the slots alone. -/
theorem slotRead_congr {s t : State} (h : s.slots = t.slots) (k : Nat) : slotRead s k = slotRead t k := by
  simp [slotRead, h]

end Sys2Proof.Machine
end

