-- ==== Sys2Proof/Laws/Emit.lean ====
section
/-! SUPPORT. The host's `emit` (R95, R97): one lemma for a run that fits, one for a run that does not. -/

namespace Sys2Proof.Machine

/-- Setting one bit of an image changes that bit only. -/
@[simp] theorem getLsbD_setSlot (image : SlotImage) (k : Nat) (v : Bool) (hk : k < 256) (j : Nat) :
    (setSlot image k v).getLsbD j = if j = k then v else image.getLsbD j := by
  by_cases hj : j < 256
  · by_cases h : j = k
    · subst h; cases v <;> simp [setSlot, hj]
    · have : ¬ (j - k = 0 ∧ k ≤ j) := by omega
      by_cases hlt : j < k
      · cases v <;> simp [setSlot, hj, h, hlt]
      · have h0 : j - k ≠ 0 := by omega
        cases v <;> simp [setSlot, hj, h, hlt, h0]
  · have : j ≠ k := by omega
    simp [this, BitVec.getLsbD_of_ge _ _ (Nat.not_lt.mp hj)]

/-- A run that fits is emitted whole: the count moves past it, its slots are the run, every other slot stays. -/
theorem emitAll_fits (capacity : Nat) (hc : capacity ≤ 256) (vs : List Bool) (b : SlotBuffer)
    (h : b.count + vs.length ≤ capacity) :
    (emitAll capacity vs b).2 = .ok ∧ (emitAll capacity vs b).1.count = b.count + vs.length ∧
      ∀ j, (emitAll capacity vs b).1.bits.getLsbD j =
        if b.count ≤ j ∧ j < b.count + vs.length then vs.getD (j - b.count) false else b.bits.getLsbD j := by
  induction vs generalizing b with
  | nil =>
    refine ⟨rfl, rfl, fun j => ?_⟩
    rw [if_neg (by simp)]; rfl
  | cons v vs ih =>
    simp only [List.length_cons] at h ⊢
    have hlt : ¬ capacity ≤ b.count := by omega
    obtain ⟨hok, hcount, hbits⟩ := ih { bits := setSlot b.bits b.count v, count := b.count + 1 } (by simp; omega)
    simp only [emitAll, hlt, if_false]
    refine ⟨hok, by rw [hcount]; simp; omega, fun j => ?_⟩
    rw [hbits j]
    simp only
    rw [getLsbD_setSlot _ _ _ (by omega)]
    by_cases h1 : j = b.count
    · subst h1; simp
    · by_cases h2 : b.count + 1 ≤ j ∧ j < b.count + 1 + vs.length
      · rw [if_pos h2, if_pos (by omega)]
        obtain ⟨k, hk⟩ : ∃ k, j - b.count = k + 1 := ⟨j - b.count - 1, by omega⟩
        have : j - (b.count + 1) = k := by omega
        simp [this, hk]
      · rw [if_neg h2, if_neg h1, if_neg (by omega)]

/-- A run that does not fit ends with `CapacityExceeded` (R97). -/
theorem emitAll_overflows (capacity : Nat) (vs : List Bool) (b : SlotBuffer) (h : capacity < b.count + vs.length)
    (hne : vs ≠ []) : (emitAll capacity vs b).2 = .capacityExceeded := by
  induction vs generalizing b with
  | nil => exact absurd rfl hne
  | cons v vs ih =>
    unfold emitAll
    split
    · rfl
    · rename_i hlt
      simp only [List.length_cons] at h
      refine ih _ (by simp; omega) ?_
      rintro rfl
      simp at h; omega

/-- An emitted run never takes the count past the capacity. -/
theorem emitAll_count_le (capacity : Nat) (vs : List Bool) (b : SlotBuffer) (h : b.count ≤ capacity) :
    (emitAll capacity vs b).1.count ≤ capacity := by
  induction vs generalizing b with
  | nil => exact h
  | cons v vs ih =>
    unfold emitAll
    split
    · exact h
    · exact ih _ (by simp; omega)

/-- A run emitted in two parts. -/
theorem emitAll_append (capacity : Nat) (us vs : List Bool) (b : SlotBuffer)
    (h : (emitAll capacity us b).2 = .ok) :
    emitAll capacity (us ++ vs) b = emitAll capacity vs (emitAll capacity us b).1 := by
  induction us generalizing b with
  | nil => rfl
  | cons u us ih =>
    by_cases hc : capacity ≤ b.count
    · simp [emitAll, hc] at h
    · simp only [emitAll, hc, if_false, List.cons_append] at h ⊢
      exact ih _ h

/-! ### Lengths of the expansions -/

@[simp] theorem length_startSlots : startSlots.length = 16 := rfl
@[simp] theorem length_bit0Slots : bit0Slots.length = 2 := rfl
@[simp] theorem length_bit1Slots : bit1Slots.length = 4 := rfl
@[simp] theorem length_stopmarkSlots : stopmarkSlots.length = 9 := rfl
@[simp] theorem length_byteBits (b : Byte) : (byteBits b).length = 8 := rfl

/-- Bit symbols take two slots, and two more for each one bit (R69, R70). -/
theorem length_flatMap_bitSlots (ds : List Bool) :
    (ds.flatMap bitSlots).length = 2 * ds.length + 2 * ds.count true := by
  induction ds with
  | nil => rfl
  | cons d ds ih => cases d <;> simp [bitSlots, ih] <;> omega

/-- BYTE takes 16 slots, and two more for each one bit (R72). -/
theorem length_byteSlots (b : Byte) : (byteSlots b).length = 16 + 2 * (byteBits b).count true := by
  rw [byteSlots, length_flatMap_bitSlots, length_byteBits]

/-- The number of one bits of a frame. -/
def frameOnes (f : RawFrame) : Nat := (f.bytes.flatMap byteBits).count true

/-- The slot count of a built program: 121, and two more for each one bit (R96). -/
theorem length_frameSlots (f : RawFrame) : (frameSlots f).length = 121 + 2 * frameOnes f := by
  simp [frameSlots, frameOnes, RawFrame.bytes, length_byteSlots]
  omega

/-- A frame has 48 bits. -/
theorem frameOnes_le (f : RawFrame) : frameOnes f ≤ 48 := by
  have := List.count_le_length (a := true) (l := f.bytes.flatMap byteBits)
  simpa [frameOnes, RawFrame.bytes] using this

/-- A built program has at most 217 slots (R96). -/
theorem length_frameSlots_le (f : RawFrame) : (frameSlots f).length ≤ Config.maxBuiltSlots := by
  have := frameOnes_le f
  rw [length_frameSlots]; simp [Config.maxBuiltSlots]; omega

end Sys2Proof.Machine
end

