-- ==== Sys2Proof/Laws/Exec.lean ====
section
/-! SUPPORT. What each shared operation and each group of instructions can do, said once. -/

namespace Sys2Proof.Machine

/-! ### The parts of a TICK -/

/-- IDLE is REPEAT_COUNT = 0 (R28). -/
theorem idle_eq_true_iff (s : State) : idle s = true ↔ s.repeatCount = 0 := by simp [idle]

theorem idle_eq_false_iff (s : State) : idle s = false ↔ s.repeatCount ≠ 0 := by simp [idle]

/-- The 42nd tick of a slot is the one that finds CUR_SUB = 41 (R119). -/
theorem endsSlot_iff (s : State) : endsSlot s = true ↔ s.curSub.toNat = 41 := by
  simp only [endsSlot, Config.subslotsPerSlot, beq_iff_eq]
  constructor <;> intro h <;> bv_omega

/-- The pass ends in the slot before SLOT_COUNT (R121). -/
theorem endsPass_iff (s : State) : endsPass s = true ↔ s.curSlot + 1 = s.slotCount := by simp [endsPass]

/-- The transmission ends in the pass that finds REPEAT_COUNT = 1 (R122). -/
theorem endsTransmission_iff (s : State) : endsTransmission s = true ↔ s.repeatCount = 1 := by
  simp only [endsTransmission, beq_iff_eq]
  constructor <;> intro h <;> bv_omega

/-- The four things the cursors' advance can do, with what each needs (R119 to R122). -/
theorem advance_cases (s : State) :
    (s.curSub.toNat ≠ 41 ∧ advance s = nextSubTick s) ∨
    (s.curSub.toNat = 41 ∧ s.curSlot + 1 ≠ s.slotCount ∧ advance s = nextSlot s) ∨
    (s.curSub.toNat = 41 ∧ s.curSlot + 1 = s.slotCount ∧ s.repeatCount ≠ 1 ∧ advance s = replayPass s) ∨
    (s.curSub.toNat = 41 ∧ s.curSlot + 1 = s.slotCount ∧ s.repeatCount = 1 ∧ advance s = completeTransmission s) := by
  by_cases h1 : s.curSub.toNat = 41
  · have e1 := (endsSlot_iff s).mpr h1
    by_cases h2 : s.curSlot + 1 = s.slotCount
    · have e2 := (endsPass_iff s).mpr h2
      by_cases h3 : s.repeatCount = 1
      · have e3 := (endsTransmission_iff s).mpr h3
        exact .inr (.inr (.inr ⟨h1, h2, h3, by simp [advance, e1, e2, e3]⟩))
      · have e3 : endsTransmission s = false := Bool.eq_false_iff.mpr fun h => h3 ((endsTransmission_iff s).mp h)
        exact .inr (.inr (.inl ⟨h1, h2, h3, by simp [advance, e1, e2, e3]⟩))
    · have e2 : endsPass s = false := Bool.eq_false_iff.mpr fun h => h2 ((endsPass_iff s).mp h)
      exact .inr (.inl ⟨h1, h2, by simp [advance, e1, e2]⟩)
  · have e1 : endsSlot s = false := Bool.eq_false_iff.mpr fun h => h1 ((endsSlot_iff s).mp h)
    exact .inl ⟨h1, by simp [advance, e1]⟩

/-- What a TICK that answers a next state did (R116, R123). -/
theorem execTick_cases {s t : State} (h : execTick s = .next t) :
    (s.repeatCount = 0 ∧ t = s) ∨
    (s.repeatCount ≠ 0 ∧ ∃ bit, slotRead s s.curSlot.toNat = .ok bit ∧ t = advance (driveSymbol bit s)) := by
  unfold execTick at h
  by_cases hi : idle s = true
  · rw [if_pos hi] at h
    exact .inl ⟨(idle_eq_true_iff s).mp hi, by cases h; rfl⟩
  · rw [if_neg hi] at h
    refine .inr ⟨fun h0 => hi ((idle_eq_true_iff s).mpr h0), ?_⟩
    split at h
    · exact ⟨_, ‹_›, by cases h; rfl⟩
    · cases h

/-- TICK in Idle (R123). -/
theorem execTick_idle {s : State} (h : s.repeatCount = 0) : execTick s = .next s := by
  simp [execTick, (idle_eq_true_iff s).mpr h]

/-- TICK in Playing on a readable slot (R116). -/
theorem execTick_playing {s : State} {bit : Bool} (h : s.repeatCount ≠ 0) (hr : slotRead s s.curSlot.toNat = .ok bit) :
    execTick s = .next (advance (driveSymbol bit s)) := by
  simp [execTick, (idle_eq_false_iff s).mpr h, hr]

/-! ### ARM -/

/-- ARM on a busy engine (R106). -/
theorem armEngine_busy {s : State} (h : s.repeatCount ≠ 0) (image : SlotImage) (n r : Nat) :
    armEngine image n r s = returnStatus .engineBusy s := by
  simp [armEngine, armCheck, (idle_eq_false_iff s).mpr h]

/-- ARM accepted (R105). -/
theorem armEngine_accepted {s : State} (h : s.repeatCount = 0) (image : SlotImage) {n r : Nat} (hn : 1 ≤ n)
    (hn' : n ≤ Config.slotCapacity) (hr : 1 ≤ r) (hr' : r ≤ Config.maxRepeat) :
    armEngine image n r s = returnStatus .ok (loadProgram image n r s) := by
  have h1 : ¬ Config.slotCapacity < n := by omega
  have h2 : n ≠ 0 := by omega
  have h3 : ¬ (r = 0 ∨ Config.maxRepeat < r) := by omega
  have hi : (!idle s) = false := by simp [(idle_eq_true_iff s).mpr h]
  simp only [armEngine, armCheck, hi, h1, h2, h3, if_false, Bool.false_eq_true]

/-- ARM either stores and starts with status Ok, from Idle and on operands in range, or changes nothing and returns another
status (R105 to R107). -/
theorem armEngine_cases (image : SlotImage) (n r : Nat) (s : State) :
    (s.repeatCount = 0 ∧ 1 ≤ n ∧ n ≤ Config.slotCapacity ∧ 1 ≤ r ∧ r ≤ Config.maxRepeat ∧
      armEngine image n r s = returnStatus .ok (loadProgram image n r s)) ∨
    (∃ st, st ≠ .ok ∧ armCheck s n r = some st ∧ armEngine image n r s = returnStatus st s) := by
  by_cases h : s.repeatCount = 0
  · have hi : (!idle s) = false := by simp [(idle_eq_true_iff s).mpr h]
    by_cases h1 : Config.slotCapacity < n
    · have : armCheck s n r = some .capacityExceeded := by simp [armCheck, hi, h1]
      exact .inr ⟨.capacityExceeded, by simp, this, by simp [armEngine, this]⟩
    · by_cases h2 : n = 0
      · have : armCheck s n r = some .invalidArgument := by simp [armCheck, hi, h2]
        exact .inr ⟨.invalidArgument, by simp, this, by simp [armEngine, this]⟩
      · by_cases h3 : r = 0 ∨ Config.maxRepeat < r
        · have : armCheck s n r = some .invalidArgument := by
            simp only [armCheck, hi, h1, h2, h3, if_true, if_false, Bool.false_eq_true]
          exact .inr ⟨.invalidArgument, by simp, this, by simp [armEngine, this]⟩
        · exact .inl ⟨h, by omega, by omega, by omega, by omega,
            armEngine_accepted h image (by omega) (by omega) (by omega) (by omega)⟩
  · exact .inr ⟨.engineBusy, by simp, by simp [armCheck, (idle_eq_false_iff s).mpr h], armEngine_busy h image n r⟩

/-! ### The host's buffer -/

/-- A pulse symbol either extends the buffer or, where it does not fit, extends it as far as it goes and returns
`CapacityExceeded`; nothing else of the state changes (R95, R97). -/
theorem emitSymbol_cases (vs : List Bool) (s : State) :
    ((emitAll Config.slotCapacity vs s.buffer).2 = .ok ∧
      emitSymbol vs s = setBuffer (emitAll Config.slotCapacity vs s.buffer).1 s) ∨
    ((emitAll Config.slotCapacity vs s.buffer).2 ≠ .ok ∧
      emitSymbol vs s = returnStatus (emitAll Config.slotCapacity vs s.buffer).2
        (setBuffer (emitAll Config.slotCapacity vs s.buffer).1 s)) := by
  unfold emitSymbol
  split
  · rename_i heq; exact .inl (by simp [heq])
  · rename_i st hst heq
    exact .inr (by rw [heq]; exact ⟨hst, rfl⟩)

/-- BUILD never fails at a conformant capacity (R97). -/
theorem buildFrame_ok (capacity : Nat) (hc : capacity ≤ 256) (h : Config.maxBuiltSlots ≤ capacity) (f : RawFrame)
    (b : SlotBuffer) :
    (buildFrame capacity f b).2 = .ok ∧ (buildFrame capacity f b).1.count = (frameSlots f).length ∧
      ∀ j, (buildFrame capacity f b).1.bits.getLsbD j =
        if j < (frameSlots f).length then (frameSlots f).getD j false else b.bits.getLsbD j := by
  have hlen := length_frameSlots_le f
  obtain ⟨h1, h2, h3⟩ := emitAll_fits capacity hc (frameSlots f) { b with count := 0 } (by simp; omega)
  refine ⟨h1, by rw [buildFrame, h2]; simp, fun j => ?_⟩
  rw [buildFrame, h3 j]; simp

/-- BUILD's meaning, its check being unreachable (R95, R97). -/
theorem execBuild_eq (f : RawFrame) (s : State) :
    execBuild f s = .next (returnResult (.program (buildFrame Config.slotCapacity f s.buffer).1)
      (setBuffer (buildFrame Config.slotCapacity f s.buffer).1 s)) := by
  have h := (buildFrame_ok Config.slotCapacity (by decide) (by decide) f s.buffer).1
  unfold execBuild
  split
  · rename_i heq; simp [heq]
  · rename_i st hst heq; rw [heq] at h; exact absurd h hst

/-- The public operations' common part: ARM on the built program (R130, R131). -/
theorem sendPacket_eq (p : ProtocolPacket) (r : Nat) (s : State) :
    sendPacket p r s =
      armEngine (buildFrame Config.slotCapacity (framePacket p) s.buffer).1.bits
        (buildFrame Config.slotCapacity (framePacket p) s.buffer).1.count r
        (setBuffer (buildFrame Config.slotCapacity (framePacket p) s.buffer).1 s) := by
  have h := (buildFrame_ok Config.slotCapacity (by decide) (by decide) (framePacket p) s.buffer).1
  unfold sendPacket
  split
  · rename_i heq; simp [heq]
  · rename_i st hst heq; rw [heq] at h; exact absurd h hst

/-! ### exec, one equation an instruction -/

@[simp] theorem exec_mark (s : State) : exec .mark s = execMark s := rfl
@[simp] theorem exec_space (s : State) : exec .space s = execSpace s := rfl
@[simp] theorem exec_isIdle (s : State) : exec .isIdle s = execIsIdle s := rfl
@[simp] theorem exec_arm (im : SlotImage) (n r : Nat) (s : State) : exec (.arm im n r) s = execArm im n r s := rfl
@[simp] theorem exec_stop (s : State) : exec .stop s = execStop s := rfl
@[simp] theorem exec_tick (s : State) : exec .tick s = execTick s := rfl
@[simp] theorem exec_start (s : State) : exec .start s = execStart s := rfl
@[simp] theorem exec_bit0 (s : State) : exec .bit0 s = execBit0 s := rfl
@[simp] theorem exec_bit1 (s : State) : exec .bit1 s = execBit1 s := rfl
@[simp] theorem exec_stopmark (s : State) : exec .stopmark s = execStopmark s := rfl
@[simp] theorem exec_byte (b : Byte) (s : State) : exec (.byte b) s = execByte b s := rfl
@[simp] theorem exec_encode (st : ACState) (s : State) : exec (.encode st) s = execEncode st s := rfl
@[simp] theorem exec_frame (p : ProtocolPacket) (s : State) : exec (.frame p) s = execFrame p s := rfl
@[simp] theorem exec_build (f : RawFrame) (s : State) : exec (.build f) s = execBuild f s := rfl
@[simp] theorem exec_encodeAndSend (st : ACState) (s : State) :
    exec (.encodeAndSend st) s = execEncodeAndSend st s := rfl
@[simp] theorem exec_sendFixedCommand (p : ProtocolPacket) (r : Nat) (s : State) :
    exec (.sendFixedCommand p r) s = execSendFixedCommand p r s := rfl

end Sys2Proof.Machine
end

