-- ==== Sys2Proof/Laws/Block.lean ====
section
/-! SUPPORT. What an instruction of the HOST can do to the block: nothing, load a program, or stop the engine. -/

namespace Sys2Proof.Machine

theorem SameBlock.refl (s : State) : SameBlock s s := ⟨rfl, rfl, rfl, rfl, rfl, rfl, rfl⟩

theorem SameBlock.trans {s t u : State} (h : SameBlock s t) (h' : SameBlock t u) : SameBlock s u :=
  ⟨h'.slots.trans h.slots, h'.slotCount.trans h.slotCount, h'.repeatCount.trans h.repeatCount,
    h'.curSlot.trans h.curSlot, h'.curSub.trans h.curSub, h'.timerRun.trans h.timerRun, h'.out.trans h.out⟩

/-- Returning a result changes no state of the block. -/
theorem sameBlock_returnResult (r : Result) (s : State) : SameBlock s (returnResult r s) := ⟨rfl, rfl, rfl, rfl, rfl, rfl, rfl⟩

theorem sameBlock_returnStatus (st : Status) (s : State) : SameBlock s (returnStatus st s) := ⟨rfl, rfl, rfl, rfl, rfl, rfl, rfl⟩

/-- Filling the host's buffer changes no state of the block. -/
theorem sameBlock_setBuffer (b : SlotBuffer) (s : State) : SameBlock s (setBuffer b s) := ⟨rfl, rfl, rfl, rfl, rfl, rfl, rfl⟩

theorem sameBlock_emitSymbol (vs : List Bool) (s : State) : SameBlock s (emitSymbol vs s) := by
  obtain ⟨-, h⟩ | ⟨-, h⟩ := emitSymbol_cases vs s <;> rw [h]
  · exact sameBlock_setBuffer _ _
  · exact (sameBlock_setBuffer _ _).trans (sameBlock_returnStatus _ _)

/-- The three things a HOST instruction can do to the block: nothing; an accepted ARM, with status Ok; a STOP, with status
Ok. -/
inductive HostEffect (i : Instr) (s t : State) : Prop where
  | nothing (same : SameBlock s t)
  | loads (image : SlotImage) (n r : Nat) (idle : s.repeatCount = 0) (inRange : acceptable n r)
      (block : SameBlock (loadProgram image n r s) t) (status : t.result = .status .ok)
      (source : (∃ image n r, i = .arm image n r) ∨ (∃ st, i = .encodeAndSend st) ∨ ∃ p r, i = .sendFixedCommand p r)
  | stops (isStop : i = .stop) (exists_ : s.hasStop = true) (state : t = stopEngine s)

theorem armEngine_effect (i : Instr) (image : SlotImage) (n r : Nat) (b : SlotBuffer) (s : State)
    (source : (∃ image n r, i = .arm image n r) ∨ (∃ st, i = .encodeAndSend st) ∨ ∃ p r, i = .sendFixedCommand p r) :
    HostEffect i s (armEngine image n r (setBuffer b s)) := by
  obtain ⟨h0, h1, h2, h3, h4, h⟩ | ⟨st, hst, -, h⟩ := armEngine_cases image n r (setBuffer b s) <;> rw [h]
  · exact .loads image n r h0 ⟨h1, h2, h3, h4⟩ ⟨rfl, rfl, rfl, rfl, rfl, rfl, rfl⟩ rfl source
  · exact .nothing ⟨rfl, rfl, rfl, rfl, rfl, rfl, rfl⟩

/-- Every HOST instruction completes, with one of the three effects, and leaves the schedule and the strap. -/
theorem exec_hostIssued {i : Instr} (hi : i.hostIssued = true) (s : State) :
    ∃ t, exec i s = .next t ∧ HostEffect i s t ∧ t.schedule = s.schedule ∧ t.hasStop = s.hasStop := by
  have emits : ∀ vs, HostEffect i s (emitSymbol vs s) ∧ (emitSymbol vs s).schedule = s.schedule ∧
      (emitSymbol vs s).hasStop = s.hasStop := fun vs => by
    refine ⟨.nothing (sameBlock_emitSymbol vs s), ?_⟩
    obtain ⟨-, h⟩ | ⟨-, h⟩ := emitSymbol_cases vs s <;> rw [h] <;> exact ⟨rfl, rfl⟩
  have arms : ∀ image n r b, (armEngine image n r (setBuffer b s)).schedule = s.schedule ∧
      (armEngine image n r (setBuffer b s)).hasStop = s.hasStop := fun image n r b => by
    obtain ⟨-, -, -, -, -, h⟩ | ⟨st, -, -, h⟩ := armEngine_cases image n r (setBuffer b s) <;> rw [h] <;> exact ⟨rfl, rfl⟩
  cases i with
  | mark => cases hi
  | space => cases hi
  | tick => cases hi
  | isIdle => exact ⟨_, rfl, .nothing (sameBlock_returnResult _ _), rfl, rfl⟩
  | arm image n r =>
    exact ⟨_, rfl, armEngine_effect _ image n r s.buffer s (.inl ⟨_, _, _, rfl⟩), arms image n r s.buffer⟩
  | stop =>
    refine ⟨_, rfl, ?_⟩
    by_cases h : s.hasStop = true
    · rw [if_pos h]; exact ⟨.stops rfl h rfl, rfl, rfl⟩
    · rw [if_neg h]; exact ⟨.nothing (sameBlock_returnStatus _ _), rfl, rfl⟩
  | start => exact ⟨_, rfl, emits _⟩
  | bit0 => exact ⟨_, rfl, emits _⟩
  | bit1 => exact ⟨_, rfl, emits _⟩
  | stopmark => exact ⟨_, rfl, emits _⟩
  | byte b => exact ⟨_, rfl, emits _⟩
  | encode st => exact ⟨_, rfl, .nothing (sameBlock_returnResult _ _), rfl, rfl⟩
  | frame p => exact ⟨_, rfl, .nothing (sameBlock_returnResult _ _), rfl, rfl⟩
  | build f =>
    exact ⟨_, execBuild_eq f s, .nothing ((sameBlock_setBuffer _ _).trans (sameBlock_returnResult _ _)), rfl, rfl⟩
  | encodeAndSend st =>
    exact ⟨_, rfl, sendPacket_eq (encodePacket st) _ s ▸ armEngine_effect _ _ _ _ _ s (.inr (.inl ⟨_, rfl⟩)),
      sendPacket_eq (encodePacket st) _ s ▸ arms _ _ _ _⟩
  | sendFixedCommand p r =>
    exact ⟨_, rfl, sendPacket_eq p r s ▸ armEngine_effect _ _ _ _ _ s (.inr (.inr ⟨_, _, rfl⟩)),
      sendPacket_eq p r s ▸ arms _ _ _ _⟩

end Sys2Proof.Machine
end

