-- ==== Sys2Proof/Laws/Decode.lean ====
section
/-! SUPPORT. Reading back the fields of a command word, and the instructions a word and a symbol can decode to. -/

namespace Sys2Proof

/-- Every bit of a command word built from its fields, in the layout of R63. -/
theorem getLsbD_commandWord (slots : SlotImage) (n : BitVec 9) (r : BitVec 8) (op : BitVec 2) (i : Nat) :
    (commandWord slots n r op).getLsbD i =
      if i < 2 then op.getLsbD i else if i < 10 then r.getLsbD (i - 2)
      else if i < 19 then n.getLsbD (i - 10) else slots.getLsbD (i - 19) := by
  simp only [commandWord, BitVec.getLsbD_cast, BitVec.getLsbD_append]
  by_cases h1 : i < 2
  · simp [h1]
  · by_cases h2 : i < 10
    · have : i - 2 < 8 := by omega
      simp [h1, h2, this]
    · by_cases h3 : i < 19
      · have a : ¬ i - 2 < 8 := by omega
        have b : i - 2 - 8 < 9 := by omega
        have c : i - 2 - 8 = i - 10 := by omega
        simp [h1, h2, h3, a, c]; omega
      · have a : ¬ i - 2 < 8 := by omega
        have b : ¬ i - 2 - 8 < 9 := by omega
        have c : i - 2 - 8 - 9 = i - 19 := by omega
        have d : ¬ i - 10 < 9 := by omega
        simp [h1, h2, h3, a, b, c]

@[simp] theorem commandOp_commandWord (slots : SlotImage) (n : BitVec 9) (r : BitVec 8) (op : BitVec 2) :
    commandOp (commandWord slots n r op) = op := by
  ext i hi
  simp [commandOp, BitVec.getElem_extractLsb', getLsbD_commandWord, hi, BitVec.getLsbD_eq_getElem]

@[simp] theorem commandRepeat_commandWord (slots : SlotImage) (n : BitVec 9) (r : BitVec 8) (op : BitVec 2) :
    commandRepeat (commandWord slots n r op) = r := by
  ext i hi
  have h1 : ¬ 2 + i < 2 := by omega
  have h2 : 2 + i < 10 := by omega
  rw [commandRepeat, BitVec.getElem_extractLsb', getLsbD_commandWord, if_neg h1, if_pos h2, Nat.add_sub_cancel_left,
    BitVec.getLsbD_eq_getElem hi]

@[simp] theorem commandSlotCount_commandWord (slots : SlotImage) (n : BitVec 9) (r : BitVec 8) (op : BitVec 2) :
    commandSlotCount (commandWord slots n r op) = n := by
  ext i hi
  have h1 : ¬ 10 + i < 2 := by omega
  have h2 : 10 + i < 19 := by omega
  simp [commandSlotCount, BitVec.getElem_extractLsb', getLsbD_commandWord, h1, h2, BitVec.getLsbD_eq_getElem, hi]

@[simp] theorem commandSlots_commandWord (slots : SlotImage) (n : BitVec 9) (r : BitVec 8) (op : BitVec 2) :
    commandSlots (commandWord slots n r op) = slots := by
  ext i hi
  have h1 : ¬ 19 + i < 2 := by omega
  have h2 : ¬ 19 + i < 10 := by omega
  simp [commandSlots, BitVec.getElem_extractLsb', getLsbD_commandWord, h1, h2, BitVec.getLsbD_eq_getElem, hi]

/-- What a command word decodes to is an instruction of the HOST. -/
theorem hostIssued_of_decode_command {w : CommandWord} {i : Instr} (h : decode (.command w) = .ok i) :
    i.hostIssued = true := by
  simp only [decode, decodeCommand] at h
  split at h <;> cases h <;> rfl

/-- What a symbol decodes to is an instruction of the HOST. -/
theorem hostIssued_of_decode_symbol {bits : List Bool} {i : Instr} (h : decode (.symbol bits) = .ok i) :
    i.hostIssued = true := by
  simp only [decode, decodeSymbol] at h
  split at h
  · cases h; rfl
  · cases h; rfl
  · cases h; rfl
  · cases h; rfl
  · split at h
    · split at h <;> cases h; rfl
    · cases h
  · cases h

/-! ### Runs of a pulse symbol -/

/-- A run of marks before a list that begins with a space, or before nothing, is one run. -/
theorem runsOf_replicate (b : Bool) (n : Nat) (rest : List Bool) (h : rest.head? ≠ some b) :
    runsOf (List.replicate (n + 1) b ++ rest) = (b, n + 1) :: runsOf rest := by
  induction n with
  | zero =>
    cases rest with
    | nil => rfl
    | cons c rest =>
      have hc : c ≠ b := fun hcb => h (by simp [hcb])
      simp only [List.replicate, List.cons_append, List.nil_append]
      rw [runsOf]
      have hd : ∃ m more, runsOf (c :: rest) = (c, m) :: more := by
        rw [runsOf]; split
        · exact ⟨_, _, rfl⟩
        · split
          · rename_i hcb; subst hcb; exact ⟨_, _, rfl⟩
          · exact ⟨_, _, rfl⟩
      obtain ⟨m, more, hm⟩ := hd
      rw [hm]; simp [hc]
  | succ n ih =>
    rw [List.replicate_succ, List.cons_append, runsOf, ih]; simp

end Sys2Proof
end

