-- ==== Sys2Proof/Laws/PerInstr.lean ====
section
/-! SUPPORT. Family EncodedFormat: the encoding of every instruction is in the format of its row of the opcode table. -/

namespace Sys2Proof.Laws.EncodedFormat

/-- The format of an encoding and the row's format agree: S for MARK and SPACE, H for the host operations, PS for the pulse
symbols, and no encoding for the event and the host software (R60, R77). -/
def Statement (i : Instr) : Prop :=
  match i with
  | .mark | .space => ∃ bit, encode i = some (.slot bit)
  | .isIdle | .arm _ _ _ | .stop => ∃ w, encode i = some (.command w)
  | .start | .bit0 | .bit1 | .stopmark | .byte _ => ∃ bits, encode i = some (.symbol bits)
  | .tick | .encode _ | .frame _ | .build _ | .encodeAndSend _ | .sendFixedCommand _ _ => encode i = none

theorem mark : Statement .mark := ⟨_, rfl⟩
theorem space : Statement .space := ⟨_, rfl⟩
theorem isIdle : Statement .isIdle := ⟨_, rfl⟩
theorem arm (slots : SlotImage) (slotCount repeats : Nat) : Statement (.arm slots slotCount repeats) := ⟨_, rfl⟩
theorem stop : Statement .stop := ⟨_, rfl⟩
theorem tick : Statement .tick := rfl
theorem start : Statement .start := ⟨_, rfl⟩
theorem bit0 : Statement .bit0 := ⟨_, rfl⟩
theorem bit1 : Statement .bit1 := ⟨_, rfl⟩
theorem stopmark : Statement .stopmark := ⟨_, rfl⟩
theorem byte (b : Byte) : Statement (.byte b) := ⟨_, rfl⟩
theorem encode (st : ACState) : Statement (.encode st) := rfl
theorem frame (p : ProtocolPacket) : Statement (.frame p) := rfl
theorem build (f : RawFrame) : Statement (.build f) := rfl
theorem encodeAndSend (st : ACState) : Statement (.encodeAndSend st) := rfl
theorem sendFixedCommand (bytes : ProtocolPacket) (repeats : Nat) : Statement (.sendFixedCommand bytes repeats) := rfl

end Sys2Proof.Laws.EncodedFormat
end

