-- ==== Sys2Proof/Laws/Step.lean ====
section
/-! SUPPORT. What one step can do. -/

namespace Sys2Proof.Machine

theorem tickAction_running {s : State} (h : s.timerRun = true) : tickAction s = .run .tick s := if_pos h

theorem tickAction_stopped {s : State} (h : s.timerRun = false) : tickAction s = .settle s :=
  if_neg (by rw [h]; exact Bool.false_ne_true)

/-- The next turn is the head of the schedule, taken from it. -/
theorem nextAction_cons {s : State} {turn : Turn} {rest : List Turn} (h : s.schedule = turn :: rest) :
    nextAction s = turnAction turn { s with schedule := rest } := by
  simp only [nextAction, h]

theorem nextAction_nil {s : State} (h : s.schedule = []) : nextAction s = tickAction s := by
  simp only [nextAction, h]

/-- The state that has taken the next turn. -/
def taken (s : State) : State := { s with schedule := s.schedule.tail }

theorem taken_of_nil {s : State} (h : s.schedule = []) : taken s = s := by
  obtain ⟨⟩ := s; subst h; rfl

theorem taken_of_cons {s : State} {turn : Turn} {rest : List Turn} (h : s.schedule = turn :: rest) :
    { s with schedule := rest } = taken s := by
  simp [taken, h]

/-- What a turn makes the machine do: no instruction runs (a stopped timer, a reserved word, a power-up), TICK runs with the
timer running, or an instruction of the HOST runs. -/
theorem turnAction_cases (turn : Turn) (s : State) :
    (s.timerRun = false ∧ turnAction turn s = .settle s) ∨
    turnAction turn s = .settle (returnStatus .invalidArgument s) ∨
    turnAction turn s = .settle (powerUpState s) ∨
    (s.timerRun = true ∧ turnAction turn s = .run .tick s) ∨
    (∃ i, i.hostIssued = true ∧ turnAction turn s = .run i s) ∨
    ∃ r, turnAction turn s = .refuse r := by
  cases turn with
  | tick =>
    by_cases ht : s.timerRun = true
    · exact .inr (.inr (.inr (.inl ⟨ht, tickAction_running ht⟩)))
    · have hf := Bool.eq_false_iff.mpr ht
      exact .inl ⟨hf, tickAction_stopped hf⟩
  | command w =>
    cases hd : decode (.command w) with
    | ok i =>
      exact .inr (.inr (.inr (.inr (.inl ⟨i, hostIssued_of_decode_command hd, by simp only [turnAction, hd]⟩))))
    | error e => exact .inr (.inl (by simp only [turnAction, hd]))
  | symbol bits =>
    cases hd : decode (.symbol bits) with
    | ok i =>
      exact .inr (.inr (.inr (.inr (.inl ⟨i, hostIssued_of_decode_symbol hd, by simp only [turnAction, hd]⟩))))
    | error e => exact .inr (.inr (.inr (.inr (.inr ⟨_, by simp only [turnAction, hd]; rfl⟩))))
  | call i =>
    by_cases hi : i.hostIssued = true
    · exact .inr (.inr (.inr (.inr (.inl ⟨i, hi, if_pos hi⟩))))
    · exact .inr (.inr (.inr (.inr (.inr ⟨_, if_neg hi⟩))))
  | powerUp => exact .inr (.inr (.inl rfl))

/-- The cases of a step. -/
theorem step_cases (s : State) :
    (s.timerRun = false ∧ step s = .next (taken s)) ∨
    step s = .next (returnStatus .invalidArgument (taken s)) ∨
    step s = .next (powerUpState (taken s)) ∨
    (s.timerRun = true ∧ step s = execTick (taken s)) ∨
    (∃ i, i.hostIssued = true ∧ step s = exec i (taken s)) ∨
    ∃ r, step s = .refused r := by
  cases hs : s.schedule with
  | nil =>
    by_cases ht : s.timerRun = true
    · refine .inr (.inr (.inr (.inl ⟨ht, ?_⟩)))
      rw [taken_of_nil hs, step, nextAction_nil hs, tickAction_running ht]; rfl
    · have hf := Bool.eq_false_iff.mpr ht
      refine .inl ⟨hf, ?_⟩
      rw [taken_of_nil hs, step, nextAction_nil hs, tickAction_stopped hf]
  | cons turn rest =>
    have ha := nextAction_cons hs
    rw [taken_of_cons hs] at ha
    obtain ⟨ht, h⟩ | h | h | ⟨ht, h⟩ | ⟨i, hi, h⟩ | ⟨r, h⟩ := turnAction_cases turn (taken s)
    · exact .inl ⟨ht, by rw [step, ha, h]⟩
    · exact .inr (.inl (by rw [step, ha, h]))
    · exact .inr (.inr (.inl (by rw [step, ha, h])))
    · exact .inr (.inr (.inr (.inl ⟨ht, by rw [step, ha, h]; rfl⟩)))
    · exact .inr (.inr (.inr (.inr (.inl ⟨i, hi, by rw [step, ha, h]⟩))))
    · exact .inr (.inr (.inr (.inr (.inr ⟨r, by rw [step, ha, h]⟩))))

/-- A step with no turn listed is the running timer's TICK. -/
theorem step_of_empty_running {s : State} (hs : s.schedule = []) (ht : s.timerRun = true) : step s = execTick s := by
  rw [step, nextAction_nil hs, tickAction_running ht]; rfl

/-! ### Runs -/

@[simp] theorem run_zero (s : State) : run 0 s = .next s := rfl

/-- A run goes on from the next state. -/
theorem run_succ_of_step {s t : State} (h : step s = .next t) (k : Nat) : run (k + 1) s = run k t := by
  simp only [run, h]

/-- A run that goes on passes through the next state. -/
theorem step_of_run_succ {s t : State} {k : Nat} (h : run (k + 1) s = .next t) : ∃ u, step s = .next u ∧ run k u = .next t := by
  cases hst : step s with
  | next u => exact ⟨u, rfl, by rwa [run_succ_of_step hst] at h⟩
  | fault f => simp [run, hst] at h
  | refused r => simp [run, hst] at h

/-- A run of `j + k` steps is a run of `k` after a run of `j`. -/
theorem run_add (j k : Nat) {s t : State} (h : run j s = .next t) : run (j + k) s = run k t := by
  induction j generalizing s with
  | zero => cases h; rw [Nat.zero_add]
  | succ j ih =>
    obtain ⟨u, hu, hr⟩ := step_of_run_succ h
    rw [Nat.add_right_comm, run_succ_of_step hu]
    exact ih hr

/-- The run of the host's interface is this run. -/
theorem core_run_eq (k : Nat) : ∀ s : State, Host.Core.run core k s = run k s := by
  induction k with
  | zero => exact fun _ => rfl
  | succ k ih =>
    intro s
    refine Eq.trans (Host.Core.run.eq_2 core s k) ?_
    rw [run]
    have hstep : core.step s = step s := rfl
    erw [hstep]
    cases step s with
    | next t => exact ih t
    | fault f => rfl
    | refused r => rfl

end Sys2Proof.Machine
end

