-- ==== Sys2Proof/Laws/Symbols.lean ====
section
/-! SUPPORT. The slot programs of the host software: what a pulse symbol's instruction does, the runs of a built program, and
slot images from lists of slots and bytes. -/

namespace Sys2Proof.Machine

/-! ### Images -/

/-- Slot `k` of an image made from a run of slots is the run's slot `k` (R62). -/
theorem getLsbD_imageOfSlots (slots : List Bool) (k : Nat) (hk : k < 256) :
    (imageOfSlots slots).getLsbD k = slots.getD k false := by
  induction slots generalizing k with
  | nil => simp [imageOfSlots]
  | cons b rest ih =>
    have h : imageOfSlots (b :: rest) = (imageOfSlots rest <<< 1) ||| BitVec.ofNat 256 b.toNat := rfl
    rw [h]
    cases k with
    | zero => cases b <;> simp
    | succ k =>
      have := ih k (by omega)
      have hb : (BitVec.ofNat 256 b.toNat).getLsbD (k + 1) = false := by cases b <;> simp
      rw [BitVec.getLsbD_or, hb, BitVec.getLsbD_shiftLeft, Nat.add_sub_cancel, this]
      simp [hk]

/-! ### Pulse symbols -/

/-- The instruction of a pulse symbol emits the symbol's own slots (R68 to R72). -/
theorem exec_of_encode_symbol {i : Instr} {vs : List Bool} (h : encode i = some (.symbol vs)) (s : State) :
    exec i s = .next (emitSymbol vs s) := by
  cases i <;> simp [encode] at h <;> subst h <;> rfl

/-- A run that passes the capacity: `CapacityExceeded`, the buffer full, the slots that fit written (R97). -/
theorem emitAll_passes (capacity : Nat) (hc : capacity ≤ 256) (vs : List Bool) (b : SlotBuffer) (h : b.count ≤ capacity)
    (h' : capacity < b.count + vs.length) :
    (emitAll capacity vs b).2 = .capacityExceeded ∧ (emitAll capacity vs b).1.count = capacity ∧
      ∀ k, k < capacity → (emitAll capacity vs b).1.bits.getLsbD k =
        if b.count ≤ k then vs.getD (k - b.count) false else b.bits.getLsbD k := by
  have hlen : (vs.take (capacity - b.count)).length = capacity - b.count := by simp; omega
  obtain ⟨h1, h2, h3⟩ := emitAll_fits capacity hc (vs.take (capacity - b.count)) b (by omega)
  obtain ⟨v, rest, hd⟩ : ∃ v rest, vs.drop (capacity - b.count) = v :: rest := by
    cases hh : vs.drop (capacity - b.count) with
    | nil => simp at hh; omega
    | cons v rest => exact ⟨v, rest, rfl⟩
  have key : emitAll capacity vs b = ((emitAll capacity (vs.take (capacity - b.count)) b).1, .capacityExceeded) := by
    conv => lhs; rw [← List.take_append_drop (capacity - b.count) vs]
    rw [emitAll_append capacity _ _ b h1, hd, emitAll, if_pos (by omega)]
  rw [key]
  refine ⟨rfl, by simp only; omega, fun k hk => ?_⟩
  simp only
  rw [h3 k]
  by_cases hb : b.count ≤ k
  · rw [if_pos ⟨hb, by omega⟩, if_pos hb]
    simp [List.getD_eq_getElem?_getD, List.getElem?_take]
    rw [if_pos (by omega)]
  · rw [if_neg (fun h => hb h.1), if_neg hb]

/-! ### One bits -/

/-- The one bits of a byte, in either order of reading. -/
theorem count_byteBits (b : Byte) : (byteBits b).count true = popcount b := by
  simp only [byteBits, popcount, List.count_eq_countP, List.countP_map]
  rw [show List.range 8 = [7, 6, 5, 4, 3, 2, 1, 0].reverse from rfl, List.countP_reverse]
  apply List.countP_congr
  simp

theorem frameOnes_eq (f : RawFrame) : frameOnes f = framePopcount f := by
  simp [frameOnes, framePopcount, RawFrame.bytes, count_byteBits, List.count_append]

/-! ### The runs of a program of pulse symbols (R75) -/

/-- A pulse symbol before a list that does not begin with a space is one pair of run lengths. -/
theorem pulseWidths_symbol (m s : Nat) (rest : List Bool) (h : rest.head? ≠ some false) :
    pulseWidths (runsOf (marks (m + 1) ++ spaces (s + 1) ++ rest)) =
      (pulseWidths (runsOf rest)).map ((m + 1, s + 1) :: ·) := by
  rw [marks, spaces, List.append_assoc, runsOf_replicate _ _ _ (by simp [List.replicate_succ]),
    runsOf_replicate _ _ _ h, pulseWidths]

/-- The run lengths of a bit symbol (R75). -/
def bitWidths (d : Bool) : Nat × Nat := if d then (1, 3) else (1, 1)

/-- Data bits before a list that does not begin with a space are their pairs of run lengths. -/
theorem pulseWidths_bits (ds : List Bool) (rest : List Bool) (h : rest.head? ≠ some false) :
    pulseWidths (runsOf (ds.flatMap bitSlots ++ rest)) = (pulseWidths (runsOf rest)).map (ds.map bitWidths ++ ·) := by
  induction ds with
  | nil => simp
  | cons d ds ih =>
    have hh : (ds.flatMap bitSlots ++ rest).head? ≠ some false := by
      cases ds with
      | nil => simpa using h
      | cons d' ds => cases d' <;> simp [bitSlots, bit0Slots, bit1Slots, marks, List.replicate]
    rw [List.flatMap_cons, List.append_assoc]
    cases d
    · rw [bitSlots, if_neg (by decide), bit0Slots, pulseWidths_symbol 0 0 _ hh, ih]
      simp [bitWidths, Option.map_map, Function.comp_def]
    · rw [bitSlots, if_pos rfl, bit1Slots, pulseWidths_symbol 0 2 _ hh, ih]
      simp [bitWidths, Option.map_map, Function.comp_def]

/-- The pairs of run lengths of data bits read back as the bits. -/
theorem dataBits_map_bitWidths (ds : List Bool) : dataBits (ds.map bitWidths) = some ds := by
  induction ds with
  | nil => rfl
  | cons d ds ih => cases d <;> simp [bitWidths, dataBits, ih]

/-- A byte's bits make the byte again. -/
theorem byteOfBits_byteBits (b : Byte) : byteOfBits (byteBits b) = b := by
  revert b; decide +kernel

/-- The slots BUILD leaves below its count are the frame's program (R95). -/
theorem programSlots_buildFrame (f : RawFrame) (b : SlotBuffer) :
    programSlots (buildFrame Config.slotCapacity f b).1.bits (buildFrame Config.slotCapacity f b).1.count =
      frameSlots f := by
  obtain ⟨-, h2, h3⟩ := buildFrame_ok Config.slotCapacity (by decide) (by decide) f b
  apply List.ext_getElem
  · simp [programSlots, h2]
  · intro k hk hk'
    simp [programSlots, h3 k, hk']

end Sys2Proof.Machine
end

