-- ==== Sys2Proof/Tests/Slice0.lean ====
section
/-! SUPPORT. Small tests with expected results written out from the spec, and one witness for each statement that has
hypotheses. -/

namespace Sys2Proof.Tests

open Sys2Proof Sys2Proof.Machine

/-! ### Helpers -/

/-- A state of the block in the notation of 95_test_vectors.md, `(SC, RC, CS, CU, RUN, OUT)`, with a slot program stored. -/
def blockAt (program : List Bool) (sc rc cs cu : Nat) (running : Bool) (out : Level) : State :=
  { State.reset with
    slots := storedCells (imageOfSlots program)
    slotCount := BitVec.ofNat 9 sc
    repeatCount := BitVec.ofNat 8 rc
    curSlot := BitVec.ofNat 9 cs
    curSub := BitVec.ofNat 6 cu
    timerRun := running
    out := out }

/-- The same notation for the state after, none where there is no next state. -/
def after (o : Host.Outcome State Fault Refusal) : Option (Nat × Nat × Nat × Nat × Bool × Level) :=
  match o with
  | .next t => some (t.slotCount.toNat, t.repeatCount.toNat, t.curSlot.toNat, t.curSub.toNat, t.timerRun, t.out)
  | .fault _ => none
  | .refused _ => none

/-- What the operation returned. -/
def returned (o : Host.Outcome State Fault Refusal) : Option Result :=
  match o with
  | .next t => some t.result
  | .fault _ => none
  | .refused _ => none

/-- The first `n` slots of the host's buffer, and its count. -/
def bufferAfter (n : Nat) (o : Host.Outcome State Fault Refusal) : Option (List Bool × Nat) :=
  match o with
  | .next t => some (programSlots t.buffer.bits n, t.buffer.count)
  | .fault _ => none
  | .refused _ => none

/-! ### WellFormed -/

theorem test_wf_arm_largest : (Instr.arm 0 511 255).wf = true := by decide
theorem test_wf_refuses_slot_count : (Instr.arm 0 512 1).wf = false := by decide
theorem test_wf_refuses_repeat : (Instr.arm 0 1 256).wf = false := by decide
theorem test_wf_refuses_host_tick : Instr.tick.hostIssued = false := by decide
theorem test_wf_refuses_host_mark : Instr.mark.hostIssued = false := by decide
theorem test_wf_refuses_host_space : Instr.space.hostIssued = false := by decide

/-! ### Decoding: words written out from R61, R63 and R68 to R72 -/

theorem test_decode_mark : decode (.slot true) = .ok .mark := by decide
theorem test_decode_space : decode (.slot false) = .ok .space := by decide
theorem test_decode_isIdle : decode (.command 0b00) = .ok .isIdle := by decide
theorem test_decode_isIdle_ignores_operands : decode (.command 0b1_000000010_00000001_00) = .ok .isIdle := by decide
/-- P1's host word: op 01, repeat 1, slot_count 2, SLOTS[0] = 1, SLOTS[1] = 0. -/
theorem test_decode_arm : decode (.command 0b1_000000010_00000001_01) = .ok (.arm 1 2 1) := by decide
theorem test_decode_arm_top_slot : decode (.command (1 <<< 274 ||| 0b01)) = .ok (.arm (1 <<< 255) 0 0) := by decide
theorem test_decode_stop : decode (.command 0b10) = .ok .stop := by decide
theorem test_decode_reserved : decode (.command 0b11) = .error .reservedOperation := by decide
theorem test_decode_start : decode (.symbol (marks 8 ++ spaces 8)) = .ok .start := by decide
theorem test_decode_bit0 : decode (.symbol [true, false]) = .ok .bit0 := by decide
theorem test_decode_bit1 : decode (.symbol [true, false, false, false]) = .ok .bit1 := by decide
theorem test_decode_stopmark : decode (.symbol (true :: spaces 8)) = .ok .stopmark := by decide
/-- 95_test_vectors.md 2.3: BYTE 0x80 begins with the long symbol. -/
theorem test_decode_byte_0x80 :
    decode (.symbol [true, false, false, false, true, false, true, false, true, false, true, false, true, false, true,
      false, true, false]) = .ok (.byte 0x80) := by decide
/-- 95_test_vectors.md 2.5: `M2 S` is no pulse symbol. -/
theorem test_decode_no_symbol : decode (.symbol [true, true, false]) = .error .notAPulseSymbol := by decide

/-! ### Opcode-table words -/

theorem test_table_isIdle : decodeTableWord 8 0 = some .isIdle := by decide
theorem test_table_arm : decodeTableWord 8 1 = some (.arm 0 0 0) := by decide
theorem test_table_stop : decodeTableWord 8 2 = some .stop := by decide
theorem test_table_start : decodeTableWord 16 65280 = some .start := by decide
theorem test_table_mark : decodeTableWord 1 1 = some .mark := by decide
theorem test_table_space : decodeTableWord 1 0 = some .space := by decide
theorem test_table_bit1 : decodeTableWord 4 0b1000 = some .bit1 := by decide
theorem test_table_stopmark : decodeTableWord 9 0b100000000 = some .stopmark := by decide
theorem test_table_reserved : decodeTableWord 8 3 = none := by decide

theorem test_fetch_isIdle : returned (step (State.reset.withFetchWord 8 0)) = some (.answer true) := by decide
theorem test_fetch_arm : returned (step (State.reset.withFetchWord 8 1)) = some (.status .invalidArgument) := by decide
theorem test_fetch_stop : returned (step (State.reset.withFetchWord 8 2)) = some (.status .invalidArgument) := by decide
theorem test_fetch_start : bufferAfter 17 (step (State.reset.withFetchWord 16 65280)) =
    some (marks 8 ++ spaces 9, 16) := by decide +kernel
theorem test_fetch_mark : after (step (State.reset.withFetchWord 1 1)) = some (1, 1, 0, 1, true, .active) := by decide
theorem test_fetch_space : after (step (State.reset.withFetchWord 1 0)) = some (1, 1, 0, 1, true, .inactive) := by decide

/-! ### One step of each instruction, expected results from 95_test_vectors.md -/

/-- R117's examples: CUR_SUB = 40 drives active, 41 inactive. -/
theorem test_mark_even : after (exec .mark (blockAt [true] 1 1 0 40 true .inactive)) =
    some (1, 1, 0, 40, true, .active) := by decide
theorem test_mark_odd : after (exec .mark (blockAt [true] 1 1 0 41 true .active)) =
    some (1, 1, 0, 41, true, .inactive) := by decide
/-- R118's example. -/
theorem test_space : after (exec .space (blockAt [false] 1 1 0 17 true .inactive)) =
    some (1, 1, 0, 17, true, .inactive) := by decide
/-- T6: the end of a pass that is not the last. -/
theorem test_tick_replay : after (exec .tick (blockAt [true, false] 2 2 1 41 true .inactive)) =
    some (2, 1, 0, 0, true, .inactive) := by decide +kernel
/-- P6's last tick: CUR_SLOT needs its ninth bit. -/
theorem test_tick_completes_full_program : after (exec .tick (blockAt (marks 256) 256 1 255 41 true .active)) =
    some (256, 0, 256, 0, false, .inactive) := by decide +kernel
/-- I3 and I4. -/
theorem test_isIdle_playing : returned (exec .isIdle (blockAt [true, false] 2 1 1 41 true .inactive)) =
    some (.answer false) := by decide
theorem test_isIdle_completed : returned (exec .isIdle (blockAt [true, false] 2 0 2 0 false .inactive)) =
    some (.answer true) := by decide
/-- A6: capacity is checked before repeat; A7: the largest operands. -/
theorem test_arm_capacity_first : returned (exec (.arm 1 257 0) State.reset) = some (.status .capacityExceeded) := by decide
theorem test_arm_largest : after (exec (.arm 1 256 255) State.reset) = some (256, 255, 0, 0, true, .inactive) := by decide
/-- X1: STOP in a mark with the emitter on; X3: one tick from completion. -/
theorem test_stop_mid_mark :
    after (exec .stop { blockAt [true, true, false, true] 4 2 1 7 true .active with hasStop := true }) =
      some (4, 0, 1, 7, false, .inactive) := by decide
theorem test_stop_near_completion :
    after (exec .stop { blockAt [true, true, false, true] 4 1 3 41 true .active with hasStop := true }) =
      some (4, 0, 3, 41, false, .inactive) := by decide
/-- 95_test_vectors.md 2.3. -/
theorem test_start_slots : bufferAfter 16 (exec .start State.reset) = some (marks 8 ++ spaces 8, 16) := by decide +kernel
theorem test_bit0_slots : bufferAfter 2 (exec .bit0 State.reset) = some ([true, false], 2) := by decide +kernel
theorem test_bit1_slots : bufferAfter 4 (exec .bit1 State.reset) = some ([true, false, false, false], 4) := by
  decide +kernel
theorem test_stopmark_slots : bufferAfter 9 (exec .stopmark State.reset) = some (true :: spaces 8, 9) := by decide +kernel
theorem test_byte_0x01_ends_with_the_long_symbol : bufferAfter 18 (exec (.byte 0x01) State.reset) =
    some ([true, false, true, false, true, false, true, false, true, false, true, false, true, false, true, false, false,
      false], 18) := by decide +kernel
theorem test_byte_0xB2_length : (bufferAfter 0 (exec (.byte 0xB2) State.reset)) = some ([], 24) := by decide +kernel
/-- E1 (S1): the source's example. -/
theorem test_encode_example : returned (exec (.encode ⟨true, .cool, 2, 22⟩) State.reset) =
    some (.packet ⟨0xB2, 0x5F, 0x70⟩) := by decide +kernel
/-- E8: a negative temperature gives the fallback nibble. -/
theorem test_encode_negative_temperature :
    tempNibble ⟨true, .cool, 2, -5⟩ = Config.tempFallback := rfl
/-- F1 and F3. -/
theorem test_frame_example : returned (exec (.frame ⟨0xB2, 0x5F, 0x70⟩) State.reset) =
    some (.frame ⟨0xB2, 0x4D, 0x5F, 0xA0, 0x70, 0x8F⟩) := by decide +kernel
theorem test_frame_ones : returned (exec (.frame ⟨0xFF, 0xFF, 0xFF⟩) State.reset) =
    some (.frame ⟨0xFF, 0x00, 0xFF, 0x00, 0xFF, 0x00⟩) := by decide +kernel
/-- B1: the byte image of slots 0 to 175. -/
theorem test_build_bytes :
    (imageBytes (buildFrame 256 ⟨0xB2, 0x4D, 0x5F, 0xA0, 0x70, 0x8F⟩ ⟨0, 0⟩).1.bits).take 22 =
      [0xFF, 0x00, 0x51, 0x44, 0x45, 0x45, 0x45, 0x14, 0x45, 0x11, 0x11, 0x11, 0x45, 0x55, 0x45, 0x44, 0x55, 0x54, 0x11,
        0x11, 0x01, 0x00] := by decide +kernel
/-- B7: with a capacity of 216 the largest program is refused. -/
theorem test_build_capacity_216 : (buildFrame 216 ⟨0xFF, 0xFF, 0xFF, 0xFF, 0xFF, 0xFF⟩ ⟨0, 0⟩).2 = .capacityExceeded := by
  decide +kernel
/-- 2.5: the round trip of B1. -/
theorem test_decodeSlots_B1 :
    decodeSlots (imageOfBytes [0xFF, 0x00, 0x51, 0x44, 0x45, 0x45, 0x45, 0x14, 0x45, 0x11, 0x11, 0x11, 0x45, 0x55, 0x45,
      0x44, 0x55, 0x54, 0x11, 0x11, 0x01, 0x00]) 169 = some ⟨0xB2, 0x4D, 0x5F, 0xA0, 0x70, 0x8F⟩ := by decide +kernel
theorem test_decodeSlots_rejects : decodeSlots (imageOfSlots [true, true, false]) 3 = none := by decide +kernel
/-- P3 after ARM, and the busy case. -/
theorem test_encodeAndSend : after (exec (.encodeAndSend ⟨true, .cool, 2, 22⟩) State.reset) =
    some (169, 2, 0, 0, true, .inactive) := by decide +kernel
theorem test_encodeAndSend_busy :
    returned (exec (.encodeAndSend ⟨true, .cool, 2, 22⟩) (blockAt [true] 1 1 0 0 true .inactive)) =
      some (.status .engineBusy) := by decide +kernel
/-- R131's example, and repeat = 0. -/
theorem test_sendFixedCommand : after (exec (.sendFixedCommand ⟨0, 0, 0⟩ 1) State.reset) =
    some (169, 1, 0, 0, true, .inactive) := by decide +kernel
theorem test_sendFixedCommand_repeat_zero : returned (exec (.sendFixedCommand ⟨0, 0, 0⟩ 0) State.reset) =
    some (.status .invalidArgument) := by decide +kernel
/-- R136's codes. -/
theorem test_status_codes :
    [Status.ok, .engineBusy, .capacityExceeded, .invalidState, .invalidArgument].map statusCode = [0, 1, 2, 3, 4] := by
  decide
/-- R76: `M2 S3 BIT1`. -/
theorem test_listing_slots : listingSlots [.marks 2, .spaces 3, .bit1] =
    [true, true, false, false, false, true, false, false, false] := by decide
/-- R76: a script's turns. -/
theorem test_script_turns : scriptTurns [.arm [.marks 1, .spaces 1] 1, .ticks 2] =
    [.call (.arm 1 2 1), .tick, .tick] := by decide +kernel

/-! ### Witnesses: states and operands that meet the hypotheses of the statements -/

/-- A playing state in range, its line as R33 (d) says, meets the invariant. -/
theorem inv_blockAt (program : List Bool) (sc rc cs cu : Nat) (out : Level) (h1 : 1 ≤ sc) (h2 : sc ≤ 256) (h3 : cs < sc)
    (h4 : cu < 42) (h5 : 1 ≤ rc) (h6 : rc ≤ 255)
    (h7 : out = .active ↔ cu % 2 = 1 ∧ slotLookup (storedCells (imageOfSlots program)) cs = some true) :
    EngineInv (blockAt program sc rc cs cu true out) := by
  have e1 : (BitVec.ofNat 9 sc).toNat = sc := by simp; omega
  have e2 : (BitVec.ofNat 9 cs).toNat = cs := by simp; omega
  have e3 : (BitVec.ofNat 6 cu).toNat = cu := by simp; omega
  have e4 : BitVec.ofNat 8 rc ≠ 0 := by bv_omega
  refine ⟨⟨fun _ => e4, fun _ => rfl⟩, fun e => absurd e e4, fun _ => ?_, fun _ => ?_, fun _ => ?_, fun _ => ?_,
    fun e => absurd e e4, wf_storedCells _, fun _ k hk => ?_, Nat.zero_le _⟩
  · simp only [blockAt, e1]; exact ⟨h1, h2⟩
  · simp only [blockAt, e1, e2]; exact h3
  · simp only [blockAt, e3]; exact h4
  · simp only [blockAt, e2, e3]; exact h7
  · simp only [blockAt, slotLookup_storedCells, if_pos hk]; rfl

/-- The block just armed with `M S`, repeat 2. -/
def armed : State := blockAt [true, false] 2 2 0 0 true .inactive

/-- One tick from the end of the last pass of `M S`. -/
def lastTick : State := blockAt [true, false] 2 1 1 41 true .inactive

theorem witness_inv_armed : EngineInv armed := inv_blockAt _ _ _ _ _ _ (by decide) (by decide) (by decide) (by decide)
  (by decide) (by decide) (by decide)
theorem witness_inv_lastTick : EngineInv lastTick := inv_blockAt _ _ _ _ _ _ (by decide) (by decide) (by decide)
  (by decide) (by decide) (by decide) (by decide +kernel)
theorem witness_inv_reset : EngineInv State.reset := by
  constructor <;> simp [State.reset, Memory.wf]
theorem witness_inv_stopped : EngineInv { State.reset with hasStop := true } := by
  constructor <;> simp [State.reset, Memory.wf]

/-- The first slot of `armed` is a mark. -/
theorem witness_read_armed : slotRead armed armed.curSlot.toNat = .ok true := by rfl
theorem witness_read_last : slotRead lastTick lastTick.curSlot.toNat = .ok false := by rfl

theorem witness_StepKeepsTheInvariant : EngineInv armed ∧ ∃ t, step armed = .next t := ⟨witness_inv_armed, _, rfl⟩
theorem witness_InvariantRulesOutFaults : EngineInv armed := witness_inv_armed
theorem witness_PowerUpGivesTheResetState : { armed with schedule := [.powerUp] }.schedule = Turn.powerUp :: [] := rfl
theorem witness_StepRunsTheFetchedInstruction :
    decode (.command 0b00) = .ok .isIdle ∧ decode (.symbol [true, false]) = .ok .bit0 ∧ Instr.stop.hostIssued = true ∧
      decode (.symbol []) = .error .notAPulseSymbol ∧ Instr.tick.hostIssued = false ∧
      { armed with schedule := [.command 0b00] }.schedule = .command 0b00 :: [] ∧
      { armed with schedule := [.symbol [true, false]] }.schedule = .symbol [true, false] :: [] ∧
      { armed with schedule := [.call .stop] }.schedule = .call .stop :: [] := by
  refine ⟨rfl, rfl, rfl, rfl, rfl, rfl, rfl, rfl⟩
theorem witness_TickAgentStepsExactlyWhileTheTimerRuns :
    armed.schedule = [] ∧ armed.timerRun = true ∧ State.reset.schedule = [] ∧ State.reset.timerRun = false ∧
      { armed with schedule := [.tick] }.schedule = .tick :: [] ∧
      { State.reset with schedule := [.tick] }.schedule = .tick :: [] := ⟨rfl, rfl, rfl, rfl, rfl, rfl⟩
theorem witness_TickRunsTheSlotSymbolAtTheCursor :
    armed.repeatCount ≠ 0 ∧ slotRead armed armed.curSlot.toNat = .ok true ∧ decode (.slot true) = .ok .mark ∧
      ∃ u, exec .mark armed = .next u := ⟨by decide, witness_read_armed, rfl, _, rfl⟩
theorem witness_StepTakesOneTurnAndKeepsTheStrap : ∃ t, step { armed with schedule := [.call .isIdle] } = .next t :=
  ⟨_, rfl⟩
theorem witness_SlotStoresKeepTheCanonicalForm : 255 < 256 ∧ Memory.wf [(0, true), (254, false)] = true := by decide
theorem witness_TickInIdleChangesNothing : State.reset.repeatCount = 0 := rfl
/-- The range's two ends: sub-ticks 0 and 40. -/
theorem witness_TickCountsSubTicks :
    (armed.repeatCount ≠ 0 ∧ slotRead armed armed.curSlot.toNat = .ok true ∧ armed.curSub.toNat < 41) ∧
      (blockAt [true, false] 2 2 1 40 true .inactive).curSub.toNat = 40 ∧
      slotRead (blockAt [true, false] 2 2 1 40 true .inactive) 1 = .ok false := by
  refine ⟨⟨by decide, witness_read_armed, by decide⟩, by decide, rfl⟩
theorem witness_FortySecondTickMovesToTheNextSlot :
    let s := blockAt [true, false] 2 2 0 41 true .active
    s.repeatCount ≠ 0 ∧ slotRead s s.curSlot.toNat = .ok true ∧ s.curSub.toNat = 41 ∧
      s.curSlot.toNat + 1 < s.slotCount.toNat := by
  refine ⟨by decide, rfl, by decide, by decide⟩
theorem witness_EndOfPassReplaysTheProgram :
    let s := blockAt [true, false] 2 2 1 41 true .inactive
    2 ≤ s.repeatCount.toNat ∧ slotRead s s.curSlot.toNat = .ok false ∧ s.curSub.toNat = 41 ∧
      s.curSlot.toNat + 1 = s.slotCount.toNat := by
  refine ⟨by decide, rfl, by decide, by decide⟩
theorem witness_LastTickCompletesTheTransmission :
    lastTick.repeatCount.toNat = 1 ∧ slotRead lastTick lastTick.curSlot.toNat = .ok false ∧ lastTick.curSub.toNat = 41 ∧
      lastTick.curSlot.toNat + 1 = lastTick.slotCount.toNat := by
  refine ⟨by decide, witness_read_last, by decide, by decide⟩
theorem witness_TickLeavesProgramAndHostAlone : ∃ t, exec .tick armed = .next t := ⟨_, rfl⟩
theorem witness_EveryTickAdvancesTheTransmissionByOne :
    EngineInv armed ∧ armed.repeatCount ≠ 0 ∧ ∃ t, exec .tick armed = .next t := ⟨witness_inv_armed, by decide, _, rfl⟩
/-- The three ends of a slot: the next slot, the replay, the completion. -/
theorem witness_OneSlotTakesFortyTwoTicks :
    let replay := blockAt [true, false] 2 2 1 0 true .inactive
    let last := blockAt [true, false] 2 1 1 0 true .inactive
    (EngineInv armed ∧ armed.repeatCount ≠ 0 ∧ armed.schedule = [] ∧ armed.curSub = 0 ∧
      slotRead armed armed.curSlot.toNat = .ok true ∧ 41 < 42 ∧ armed.curSlot.toNat + 1 < armed.slotCount.toNat) ∧
    (EngineInv replay ∧ replay.repeatCount ≠ 0 ∧ replay.schedule = [] ∧ replay.curSub = 0 ∧
      slotRead replay replay.curSlot.toNat = .ok false ∧ replay.curSlot.toNat + 1 = replay.slotCount.toNat ∧
      2 ≤ replay.repeatCount.toNat) ∧
    (EngineInv last ∧ last.repeatCount ≠ 0 ∧ last.schedule = [] ∧ last.curSub = 0 ∧
      slotRead last last.curSlot.toNat = .ok false ∧ last.curSlot.toNat + 1 = last.slotCount.toNat ∧
      last.repeatCount = 1) := by
  refine ⟨⟨witness_inv_armed, by decide, rfl, rfl, witness_read_armed, by decide, by decide⟩,
    ⟨inv_blockAt _ _ _ _ _ _ ?_ ?_ ?_ ?_ ?_ ?_ ?_, by decide, rfl, rfl, by rfl, by decide, by decide⟩,
    ⟨inv_blockAt _ _ _ _ _ _ ?_ ?_ ?_ ?_ ?_ ?_ ?_, by decide, rfl, rfl, by rfl, by decide, by decide⟩⟩ <;> decide
theorem witness_TransmissionCompletesInBoundedTicks :
    EngineInv armed ∧ armed.repeatCount ≠ 0 ∧ armed.schedule = [] ∧ 0 < ticksLeft armed :=
  ⟨witness_inv_armed, by decide, rfl, by decide⟩
/-- The smallest and the largest operands; also for the waveform, the active ticks and the two ARMs. -/
theorem witness_ArmedProgramPlaysItsTicksThenIsIdle :
    EngineInv State.reset ∧ State.reset.repeatCount = 0 ∧ State.reset.schedule = [] ∧ acceptable 1 1 ∧
      acceptable 256 255 ∧ ∃ t, exec (.arm 1 256 255) State.reset = .next t := by
  refine ⟨witness_inv_reset, rfl, rfl, ?_, ?_, _, rfl⟩ <;> simp [acceptable, Config.slotCapacity, Config.maxRepeat]
theorem witness_ArmedProgramGivesTheWaveform :
    EngineInv State.reset ∧ State.reset.repeatCount = 0 ∧ State.reset.schedule = [] ∧ acceptable 256 255 ∧
      (∃ t, exec (.arm 1 256 255) State.reset = .next t) ∧ 2741759 < 42 * 256 * 255 := by
  refine ⟨witness_inv_reset, rfl, rfl, ?_, ⟨_, rfl⟩, by decide⟩
  simp [acceptable, Config.slotCapacity, Config.maxRepeat]
theorem witness_ActiveTicksAreTwentyOnePerMark :
    EngineInv State.reset ∧ State.reset.repeatCount = 0 ∧ State.reset.schedule = [] ∧ acceptable 1 1 ∧
      ∃ t, exec (.arm 1 1 1) State.reset = .next t := by
  refine ⟨witness_inv_reset, rfl, rfl, ?_, _, rfl⟩
  simp [acceptable, Config.slotCapacity, Config.maxRepeat]
theorem witness_AcceptedArmLoadsAndStarts :
    State.reset.repeatCount = 0 ∧ acceptable 1 1 ∧ acceptable 256 255 ∧ 255 < 256 := by
  refine ⟨rfl, ?_, ?_, by decide⟩ <;> simp [acceptable, Config.slotCapacity, Config.maxRepeat]
theorem witness_ArmWhileBusyChangesNothing : armed.repeatCount ≠ 0 := by decide
theorem witness_ArmRejectsBadOperandsInOrder :
    State.reset.repeatCount = 0 ∧ 256 < 257 ∧ 0 = 0 ∧ (1 ≤ 1 ∧ 1 ≤ 256 ∧ (0 = 0 ∨ 255 < 0)) ∧
      (1 ≤ 256 ∧ 256 ≤ 256 ∧ (256 = 0 ∨ 255 < 256)) := by decide
theorem witness_StopCutsTheTransmission :
    { armed with hasStop := true }.hasStop = true ∧ EngineInv { State.reset with hasStop := true } ∧
      { State.reset with hasStop := true }.repeatCount = 0 ∧
      ∃ t, exec .stop { State.reset with hasStop := true } = .next t :=
  ⟨rfl, witness_inv_stopped, rfl, _, rfl⟩
theorem witness_ReservedOperationsReturnInvalidArgument :
    State.reset.hasStop = false ∧ { armed with schedule := [.command 0b11] }.schedule = .command 0b11 :: [] ∧
      (0b11 : CommandWord).getLsbD 0 = true ∧ (0b11 : CommandWord).getLsbD 1 = true := by
  refine ⟨rfl, rfl, by decide, by decide⟩
theorem witness_FailedHostOperationsChangeNoBlockState :
    (Instr.arm 1 0 1).hostIssued = true ∧ returned (exec (.arm 1 0 1) armed) = some (.status .engineBusy) ∧
      Status.engineBusy ≠ .ok := by decide
theorem witness_OneWriterAtATime :
    (State.reset.repeatCount = 0 ∧ ∃ t, exec .tick State.reset = .next t) ∧ armed.repeatCount ≠ 0 ∧
      (Instr.arm 1 1 1).hostIssued = true ∧ Instr.arm 1 1 1 ≠ .stop ∧ (∃ t, exec (.arm 1 1 1) armed = .next t) ∧
      ∃ t, exec .tick armed = .next t :=
  ⟨⟨rfl, _, rfl⟩, by decide, rfl, by simp, ⟨_, rfl⟩, _, rfl⟩
theorem witness_PlayingIsEnteredByArmAndLeftByTickOrStop :
    (State.reset.repeatCount = 0 ∧ ∃ t, exec (.arm 1 1 1) State.reset = .next t ∧ t.repeatCount ≠ 0) ∧
      (lastTick.repeatCount ≠ 0 ∧ ∃ t, exec .tick lastTick = .next t ∧ t.repeatCount = 0) :=
  ⟨⟨rfl, _, rfl, by decide⟩, by decide, _, rfl, by decide⟩
theorem witness_ResultsRevealOnlyIdle :
    Instr.isIdle.hostIssued = true ∧ idle armed = idle lastTick ∧ armed.buffer = lastTick.buffer ∧
      armed.result = lastTick.result ∧ armed.hasStop = lastTick.hasStop ∧ (∃ t, exec .isIdle armed = .next t) ∧
      ∃ t, exec .isIdle lastTick = .next t := ⟨rfl, by decide, rfl, rfl, rfl, ⟨_, rfl⟩, _, rfl⟩
theorem witness_SecondOfTwoArmsIsRefused :
    State.reset.repeatCount = 0 ∧ acceptable 2 1 ∧ ∃ t, exec (.arm 1 2 1) State.reset = .next t := by
  refine ⟨rfl, ?_, _, rfl⟩
  simp [acceptable, Config.slotCapacity, Config.maxRepeat]
theorem witness_HostOperationMeetsTheCompletingTick :
    EngineInv lastTick ∧ EngineInv { lastTick with hasStop := true } ∧ acceptable 1 1 ∧ lastTick.repeatCount = 1 ∧
      lastTick.curSub = 41 ∧ lastTick.curSlot + 1 = lastTick.slotCount ∧ { lastTick with hasStop := true }.hasStop = true := by
  have h := witness_inv_lastTick
  refine ⟨h, ⟨h.timer, h.idleOut, h.count, h.slot, h.sub, h.phase, fun e => absurd e (by decide), h.memory, h.written,
    h.bufferCount⟩, ?_, by decide, by decide, by decide, rfl⟩
  simp [acceptable, Config.slotCapacity, Config.maxRepeat]
/-- START at slot 240 fits exactly; at slot 241 it does not. -/
theorem witness_PulseSymbolIsEmittedIntoTheBuffer :
    encode .start = some (.symbol startSlots) ∧
      { State.reset with buffer := ⟨0, 240⟩ }.buffer.count + startSlots.length ≤ 256 ∧
      encode (.byte 0xFF) = some (.symbol (byteSlots 0xFF)) ∧
      { State.reset with buffer := ⟨0, 224⟩ }.buffer.count + (byteSlots 0xFF).length ≤ 256 := by
  refine ⟨rfl, by decide, rfl, by decide⟩
theorem witness_PulseSymbolThatDoesNotFitIsReported :
    encode .start = some (.symbol startSlots) ∧ { State.reset with buffer := ⟨0, 241⟩ }.buffer.count ≤ 256 ∧
      256 < { State.reset with buffer := ⟨0, 241⟩ }.buffer.count + startSlots.length ∧
      encode .bit0 = some (.symbol bit0Slots) ∧ { State.reset with buffer := ⟨0, 256⟩ }.buffer.count ≤ 256 ∧
      256 < { State.reset with buffer := ⟨0, 256⟩ }.buffer.count + bit0Slots.length := by
  refine ⟨rfl, by decide, by decide, rfl, by decide, by decide⟩
theorem witness_DisabledStateEncodesToTheOffPacket : (⟨false, .heat, 3, 99⟩ : ACState).enabled = false := rfl
/-- The clauses at their boundaries: 17 is entry 0, 30 is entry 13, 16 and 31 are out of range. -/
theorem witness_EnabledStateEncodesByTheTables :
    (⟨true, .auto, 0, 22⟩ : ACState).mode = .auto ∧ (⟨true, .fan, 2, 99⟩ : ACState).mode = .fan ∧
      (⟨true, .cool, 2, 17⟩ : ACState).temperature = 17 + ((0 : Fin 14).val : Int) ∧
      (⟨true, .cool, 2, 30⟩ : ACState).temperature = 17 + ((13 : Fin 14).val : Int) ∧
      (⟨true, .cool, 2, 16⟩ : ACState).temperature < 17 ∧ 30 < (⟨true, .cool, 2, 31⟩ : ACState).temperature := by decide
theorem witness_ProducedFramesHaveTwentyFourOnes :
    ∃ t f, exec (.frame ⟨0xA5, 0x3C, 0x01⟩) State.reset = .next t ∧ t.result = .frame f := ⟨_, _, rfl, rfl⟩
/-- BUILD on the least and the greatest number of one bits; also for R98 and R99. -/
theorem witness_BuiltProgramCounts :
    (returned (exec (.build ⟨0, 0, 0, 0, 0, 0⟩) State.reset)).isSome = true ∧
      ∃ t b, exec (.build ⟨0xFF, 0xFF, 0xFF, 0xFF, 0xFF, 0xFF⟩) State.reset = .next t ∧ t.result = .program b := by
  exact ⟨by decide +kernel, _, _, by rfl, by rfl⟩
theorem witness_BuildDependsOnTheFrameAlone :
    (∃ t b, exec (.build ⟨0, 0, 0, 0, 0, 0⟩) State.reset = .next t ∧ t.result = .program b) ∧
      ∃ t b, exec (.build ⟨0, 0, 0, 0, 0, 0⟩) { State.reset with buffer := ⟨-1, 7⟩ } = .next t ∧ t.result = .program b :=
  ⟨⟨_, _, by rfl, by rfl⟩, _, _, by rfl, by rfl⟩
theorem witness_DecodeSlotsInvertsBuild :
    ∃ t b, exec (.build ⟨0xB2, 0x4D, 0x5F, 0xA0, 0x70, 0x8F⟩) State.reset = .next t ∧ t.result = .program b :=
  ⟨_, _, by rfl, by rfl⟩
theorem witness_BuildNeverExceedsAConformantCapacity :
    217 ≤ 217 ∧ 217 ≤ 256 ∧ 120 < 121 + 2 * framePopcount ⟨0, 0, 0, 0, 0, 0⟩ ∧ 120 ≤ 120 := by decide
theorem witness_EncodeAndSendArmsTwoPasses : State.reset.repeatCount = 0 ∧ armed.repeatCount ≠ 0 ∧ 168 < 169 := by decide
theorem witness_EncodeAndSendPlaysTheFrameTwice :
    EngineInv State.reset ∧ State.reset.repeatCount = 0 ∧ State.reset.schedule = [] ∧
      (∃ t, exec (.encodeAndSend ⟨true, .cool, 2, 22⟩) State.reset = .next t) ∧ 14195 < 14196 :=
  ⟨witness_inv_reset, rfl, rfl, ⟨_, rfl⟩, by decide⟩
theorem witness_SendFixedCommandArmsTheGivenRepeat :
    State.reset.repeatCount = 0 ∧ (1 ≤ 255 ∧ 255 ≤ 255) ∧ (0 = 0 ∨ 255 < 0) ∧ (256 = 0 ∨ 255 < 256) ∧
      armed.repeatCount ≠ 0 := by decide
theorem witness_InvalidStateIsNeverReturned :
    ∃ t, exec .bit0 { State.reset with result := .status .invalidState } = .next t ∧ t.result = .status .invalidState :=
  ⟨_, by rfl, by rfl⟩
theorem witness_HostSoftwareLeavesTheBlockAlone :
    Instr.isIdle.hostIssued = true ∧ (∀ image n r, Instr.isIdle ≠ .arm image n r) ∧ Instr.isIdle ≠ .stop ∧
      (∀ st, Instr.isIdle ≠ .encodeAndSend st) ∧ (∀ p r, Instr.isIdle ≠ .sendFixedCommand p r) ∧
      ∃ t, exec .isIdle armed = .next t :=
  ⟨rfl, by simp, by simp, by simp, by simp, _, rfl⟩
theorem witness_DecodeInvertsEncode :
    (Instr.arm (-1) 511 255).wf = true ∧ (encode (.arm (-1) 511 255)).isSome = true := by decide
theorem witness_CommandWordFieldsAreRead :
    (0 : CommandWord).toNat % 4 = 0 ∧ (1 : CommandWord).toNat % 4 = 1 ∧ (2 : CommandWord).toNat % 4 = 2 ∧
      (-1 : CommandWord).toNat % 4 = 3 ∧ 255 < 256 := by decide
theorem witness_ListedProgramIsArmedAsWritten :
    (listingSlots [.marks 256]).length ≤ 256 ∧
      ∃ t b, exec (.build (framePacket ⟨0, 0, 0⟩)) State.reset = .next t ∧ t.result = .program b :=
  ⟨by decide +kernel, _, _, by rfl, by rfl⟩

end Sys2Proof.Tests
end

