-- ==== Sys2Proof/Proofs/Scope.lean ====
section
/-! PROOFS. The statements on the machine's scope (00_scope.md): the step and the turn it takes, the slot space read after
it is written, and what a HOST instruction reveals of the block. -/

namespace Sys2Proof.Machine

/-! ### The step and the turn it takes -/

/-- A turn that runs an instruction makes the step that instruction's meaning (R6, R50). -/
theorem step_of_turn_runs {s u : State} {turn : Turn} {rest : List Turn} {i : Instr} (hs : s.schedule = turn :: rest)
    (hrun : turnAction turn { s with schedule := rest } = .run i u) : step s = exec i u := by
  rw [step, nextAction_cons hs, hrun]

/-- A turn that has no meaning makes the step refuse by the same name (log 14). -/
theorem step_of_turn_refused {s : State} {turn : Turn} {rest : List Turn} {r : Refusal} (hs : s.schedule = turn :: rest)
    (hrefuse : turnAction turn { s with schedule := rest } = .refuse r) : step s = .refused r := by
  rw [step, nextAction_cons hs, hrefuse]

theorem turnAction_command_of_decode {w : CommandWord} {i : Instr} (h : decode (.command w) = .ok i) (s : State) :
    turnAction (.command w) s = .run i s := by
  simp only [turnAction, h]

theorem turnAction_symbol_of_decode {bits : List Bool} {i : Instr} (h : decode (.symbol bits) = .ok i) (s : State) :
    turnAction (.symbol bits) s = .run i s := by
  simp only [turnAction, h]

theorem turnAction_symbol_of_reject {bits : List Bool} {e : Reject} (h : decode (.symbol bits) = .error e) (s : State) :
    turnAction (.symbol bits) s = .refuse .notAPulseSymbol := by
  simp only [turnAction, h]

theorem turnAction_call_of_host {i : Instr} (h : i.hostIssued = true) (s : State) :
    turnAction (.call i) s = .run i s := by
  simp only [turnAction, h, if_true]

theorem turnAction_call_of_not_host {i : Instr} (h : i.hostIssued = false) (s : State) :
    turnAction (.call i) s = .refuse .notAHostOperation := by
  simp only [turnAction, h, Bool.false_eq_true, if_false]

/-- Settles O7: the step follows the action of the turn at the head of the schedule, and each kind of turn has its own. -/
theorem stepRunsTheFetchedInstruction : Obligations.StepRunsTheFetchedInstruction :=
  ⟨fun _ _ _ _ hs hd => step_of_turn_runs hs (turnAction_command_of_decode hd _),
    fun _ _ _ _ hs hd => step_of_turn_runs hs (turnAction_symbol_of_decode hd _),
    fun _ _ _ hs hi => step_of_turn_runs hs (turnAction_call_of_host hi _),
    fun _ _ _ _ hs hd => step_of_turn_refused hs (turnAction_symbol_of_reject hd _),
    fun _ _ _ hs hi => step_of_turn_refused hs (turnAction_call_of_not_host hi _)⟩

/-! ### The schedule and the strap -/

@[simp] theorem taken_schedule (s : State) : (taken s).schedule = s.schedule.tail := rfl
@[simp] theorem taken_hasStop (s : State) : (taken s).hasStop = s.hasStop := rfl

@[simp] theorem driveSymbol_schedule (bit : Bool) (s : State) : (driveSymbol bit s).schedule = s.schedule := by
  rw [driveSymbol_eq, setOut_schedule]

@[simp] theorem driveSymbol_hasStop (bit : Bool) (s : State) : (driveSymbol bit s).hasStop = s.hasStop := by
  rw [driveSymbol_eq, setOut_hasStop]

@[simp] theorem advance_schedule (s : State) : (advance s).schedule = s.schedule := by
  obtain ⟨-, h⟩ | ⟨-, -, h⟩ | ⟨-, -, -, h⟩ | ⟨-, -, -, h⟩ := advance_cases s <;> rw [h] <;> rfl

@[simp] theorem advance_hasStop (s : State) : (advance s).hasStop = s.hasStop := by
  obtain ⟨-, h⟩ | ⟨-, -, h⟩ | ⟨-, -, -, h⟩ | ⟨-, -, -, h⟩ := advance_cases s <;> rw [h] <;> rfl

/-- TICK takes no turn and moves no strap. -/
theorem execTick_schedule_hasStop {s t : State} (h : execTick s = .next t) :
    t.schedule = s.schedule ∧ t.hasStop = s.hasStop := by
  obtain ⟨-, rfl⟩ | ⟨-, bit, -, rfl⟩ := execTick_cases h
  · exact ⟨rfl, rfl⟩
  · simp

/-- Settles O10, case by case of what a step can do: none of them touches the schedule or the strap of the state that has
taken the turn. -/
theorem stepTakesOneTurnAndKeepsTheStrap : Obligations.StepTakesOneTurnAndKeepsTheStrap := by
  intro s t h
  suffices hkeep : t.schedule = (taken s).schedule ∧ t.hasStop = (taken s).hasStop from hkeep
  obtain ⟨-, hstep⟩ | hstep | hstep | ⟨-, hstep⟩ | ⟨i, hi, hstep⟩ | ⟨r, hstep⟩ := step_cases s <;> rw [hstep] at h
  · cases h; exact ⟨rfl, rfl⟩
  · cases h; exact ⟨rfl, rfl⟩
  · cases h; exact ⟨rfl, rfl⟩
  · exact execTick_schedule_hasStop h
  · obtain ⟨u, hu, -, hsched, hstrap⟩ := exec_hostIssued hi (taken s)
    obtain rfl : u = t := by simpa [hu] using h
    exact ⟨hsched, hstrap⟩
  · cases h

/-! ### The slot space, read after SlotStoreAll -/

/-- An index past the slot space faults (R46, R48, log 2). -/
theorem slotRead_of_capacity_le {k : Nat} (h : Config.slotCapacity ≤ k) (s : State) :
    slotRead s k = .error .slotOutOfRange := if_pos h

/-- Settles O11: inside the slot space the stored cells hold the image's bit, outside it the read faults. -/
theorem storedImageReadsBack : Obligations.StoredImageReadsBack := by
  intro image s k
  by_cases hk : k < 256
  · rw [if_pos hk, slotRead_eq_ok_iff, slotStoreAll_slots, slotLookup_storedCells]
    exact ⟨hk, if_pos hk⟩
  · rw [if_neg hk]
    exact slotRead_of_capacity_le (Nat.not_lt.mp hk) _

/-! ### What a HOST instruction reveals of the block -/

/-- Two states show the HOST the same: its own buffer and the last result (R7, R136). -/
structure SameReply (s t : State) : Prop where
  result : s.result = t.result
  buffer : s.buffer = t.buffer

/-- The emit of a pulse symbol reads the host's own state alone. -/
theorem emitSymbol_sameReply (vs : List Bool) {s t : State} (h : SameReply s t) :
    SameReply (emitSymbol vs s) (emitSymbol vs t) := by
  obtain ⟨hok, hs⟩ | ⟨hno, hs⟩ := emitSymbol_cases vs s <;>
    obtain ⟨hok', ht⟩ | ⟨hno', ht⟩ := emitSymbol_cases vs t <;> rw [hs, ht]
  · exact ⟨h.result, by simp [h.buffer]⟩
  · exact absurd (h.buffer ▸ hok) hno'
  · exact absurd (h.buffer ▸ hok') hno
  · exact ⟨by simp [h.buffer], by simp [h.buffer]⟩

@[simp] theorem idle_setBuffer (b : SlotBuffer) (s : State) : idle (setBuffer b s) = idle s := rfl

/-- ARM's checks read the block's IDLE alone (R106, R107). -/
theorem armCheck_congr {s t : State} (h : idle s = idle t) (n r : Nat) : armCheck s n r = armCheck t n r := by
  simp only [armCheck, h]

/-- ARM returns the status of the check that fails, and Ok where none does. -/
theorem armEngine_result (image : SlotImage) (n r : Nat) (s : State) :
    (armEngine image n r s).result = .status ((armCheck s n r).getD .ok) := by
  cases h : armCheck s n r <;> simp [armEngine, h]

theorem armEngine_buffer (image : SlotImage) (n r : Nat) (s : State) : (armEngine image n r s).buffer = s.buffer := by
  cases h : armCheck s n r <;> simp [armEngine, h]

/-- What ARM returns depends on the block through IDLE alone. -/
theorem armEngine_sameReply {s t : State} (hidle : idle s = idle t) (hbuffer : s.buffer = t.buffer) (image : SlotImage)
    (n r : Nat) : SameReply (armEngine image n r s) (armEngine image n r t) :=
  ⟨by rw [armEngine_result, armEngine_result, armCheck_congr hidle], by simp [armEngine_buffer, hbuffer]⟩

/-- So does what a public operation returns: its program is built from its operand and the host's buffer, then armed. -/
theorem sendPacket_sameReply {s t : State} (hidle : idle s = idle t) (hbuffer : s.buffer = t.buffer)
    (p : ProtocolPacket) (r : Nat) : SameReply (sendPacket p r s) (sendPacket p r t) := by
  rw [sendPacket_eq, sendPacket_eq, hbuffer]
  refine armEngine_sameReply ?_ ?_ _ _ _
  · rwa [idle_setBuffer, idle_setBuffer]
  · rfl

/-- What STOP returns depends on the strap alone (R74, R109). -/
theorem execStop_sameReply {s t s' t' : State} (hstrap : s.hasStop = t.hasStop) (hbuffer : s.buffer = t.buffer)
    (hs : execStop s = .next s') (ht : execStop t = .next t') : SameReply s' t' := by
  cases hs; cases ht
  rw [hstrap]
  split <;> exact ⟨rfl, hbuffer⟩

/-- A HOST instruction answers alike in two states that agree on IDLE, the strap and the host's own state. -/
theorem exec_sameReply {i : Instr} {s t s' t' : State} (hi : i.hostIssued = true) (hidle : idle s = idle t)
    (hstrap : s.hasStop = t.hasStop) (h : SameReply s t) (hs : exec i s = .next s') (ht : exec i t = .next t') :
    SameReply s' t' := by
  have hbuffer := h.buffer
  cases i with
  | mark => cases hi
  | space => cases hi
  | tick => cases hi
  | isIdle => cases hs; cases ht; exact ⟨congrArg Result.answer hidle, hbuffer⟩
  | arm image n r => cases hs; cases ht; exact armEngine_sameReply hidle hbuffer image n r
  | stop => exact execStop_sameReply hstrap hbuffer hs ht
  | start => cases hs; cases ht; exact emitSymbol_sameReply _ h
  | bit0 => cases hs; cases ht; exact emitSymbol_sameReply _ h
  | bit1 => cases hs; cases ht; exact emitSymbol_sameReply _ h
  | stopmark => cases hs; cases ht; exact emitSymbol_sameReply _ h
  | byte b => cases hs; cases ht; exact emitSymbol_sameReply _ h
  | encode st => cases hs; cases ht; exact ⟨rfl, hbuffer⟩
  | frame p => cases hs; cases ht; exact ⟨rfl, hbuffer⟩
  | build f =>
    rw [exec_build, execBuild_eq] at hs ht
    cases hs; cases ht
    rw [hbuffer]
    exact ⟨rfl, rfl⟩
  | encodeAndSend st => cases hs; cases ht; exact sendPacket_sameReply hidle hbuffer _ _
  | sendFixedCommand p r => cases hs; cases ht; exact sendPacket_sameReply hidle hbuffer p r

/-- Settles O36: equal answers on equal IDLE, for each HOST instruction in turn. -/
theorem resultsRevealOnlyIdle : Obligations.ResultsRevealOnlyIdle := by
  intro i s t s' t' hi hidle hbuffer hresult hstrap hs ht
  have h := exec_sameReply hi hidle hstrap ⟨hresult, hbuffer⟩ hs ht
  exact ⟨h.result, h.buffer⟩

end Sys2Proof.Machine
end

