-- ==== Sys2Proof/Proofs/State.lean ====
section
/-! PROOFS. The statements on the state (10_state.md): its values at reset and power-up, the steps of the TICK agent, the
invariant of R33 kept by every step, and what it gives: no fault on any run, one tick fewer to go after every TICK. -/

namespace Sys2Proof.Machine

/-! ### Ways to meet the invariant: in Idle, in Playing, and in a state with the same block -/

/-- In Idle the clauses on Playing say nothing (R33). -/
theorem EngineInv.of_idle {s : State} (hidle : s.repeatCount = 0) (timer : s.timerRun = false) (out : s.out = .inactive)
    (cursors : s.hasStop = false → s.curSub = 0 ∧ s.curSlot = s.slotCount) (memory : Memory.wf s.slots = true)
    (buffer : s.buffer.count ≤ Config.slotCapacity) : EngineInv s where
  timer := by simp [hidle, timer]
  idleOut _ := out
  count h := absurd hidle h
  slot h := absurd hidle h
  sub h := absurd hidle h
  phase h := absurd hidle h
  idleCursors _ := cursors
  memory := memory
  written h := absurd hidle h
  bufferCount := buffer

/-- In Playing the clauses on Idle say nothing (R33). -/
theorem EngineInv.of_playing {s : State} (hplay : s.repeatCount ≠ 0) (timer : s.timerRun = true)
    (count : 1 ≤ s.slotCount.toNat ∧ s.slotCount.toNat ≤ Config.slotCapacity)
    (slot : s.curSlot.toNat < s.slotCount.toNat) (sub : s.curSub.toNat < Config.subslotsPerSlot)
    (phase : s.out = .active ↔ s.curSub.toNat % 2 = 1 ∧ slotLookup s.slots s.curSlot.toNat = some true)
    (memory : Memory.wf s.slots = true)
    (written : ∀ k, k < Config.slotCapacity → (slotLookup s.slots k).isSome = true)
    (buffer : s.buffer.count ≤ Config.slotCapacity) : EngineInv s where
  timer := iff_of_true timer hplay
  idleOut h := absurd h hplay
  count _ := count
  slot _ := slot
  sub _ := sub
  phase _ := phase
  idleCursors h := absurd h hplay
  memory := memory
  written _ := written
  bufferCount := buffer

/-- The invariant speaks of the block, the strap and the host's count alone. -/
theorem EngineInv.of_sameBlock {s t : State} (h : EngineInv s) (hblock : SameBlock s t) (hstrap : t.hasStop = s.hasStop)
    (hbuffer : t.buffer.count ≤ Config.slotCapacity) : EngineInv t := by
  obtain ⟨slots, slotCount, repeatCount, curSlot, curSub, timerRun, out⟩ := hblock
  constructor
  case bufferCount => exact hbuffer
  all_goals simp only [slots, slotCount, repeatCount, curSlot, curSub, timerRun, out, hstrap]
  exacts [h.timer, h.idleOut, h.count, h.slot, h.sub, h.phase, h.idleCursors, h.memory, h.written]

theorem sameBlock_taken (s : State) : SameBlock s (taken s) := ⟨rfl, rfl, rfl, rfl, rfl, rfl, rfl⟩

/-- Taking a turn from the schedule keeps the invariant (log 3). -/
theorem EngineInv.after_turn_taken {s : State} (h : EngineInv s) : EngineInv (taken s) :=
  h.of_sameBlock (sameBlock_taken s) rfl h.bufferCount

/-! ### Reset and power-up -/

/-- Power-up gives the invariant, whatever the state before it (R33, R36). -/
theorem engineInv_powerUpState (s : State) : EngineInv (powerUpState s) :=
  .of_idle rfl rfl rfl (fun _ => ⟨rfl, rfl⟩) rfl (Nat.zero_le _)

/-- Settles O2: the reset state with these turns and this strap is the one that power-up gives. -/
theorem resetMeetsTheInvariant : Obligations.ResetMeetsTheInvariant :=
  fun turns strap => engineInv_powerUpState { State.reset with schedule := turns, hasStop := strap }

/-- Settles O1: each element of the block as reset writes it. -/
theorem resetPutsTheBlockInIdle : Obligations.ResetPutsTheBlockInIdle :=
  ⟨rfl, (idle_eq_true_iff _).mpr rfl, rfl, rfl, rfl, rfl, rfl, fun _ => rfl⟩

/-- A turn that runs no instruction makes the step the state it settles in. -/
theorem step_of_turn_settles {s u : State} {turn : Turn} {rest : List Turn} (hs : s.schedule = turn :: rest)
    (hsettle : turnAction turn { s with schedule := rest } = .settle u) : step s = .next u := by
  rw [step, nextAction_cons hs, hsettle]

/-- Settles O6: a power-up turn runs no instruction and settles in the power-up state. -/
theorem powerUpGivesTheResetState : Obligations.PowerUpGivesTheResetState :=
  fun _ _ hs => step_of_turn_settles hs rfl

/-! ### The TICK agent -/

/-- A step with no turn listed and the timer stopped leaves the block at rest (R153, log 3). -/
theorem step_of_empty_stopped {s : State} (hs : s.schedule = []) (ht : s.timerRun = false) : step s = .next s := by
  rw [step, nextAction_nil hs, tickAction_stopped ht]

/-- Settles O8: a tick turn and an empty schedule both ask the timer, which runs TICK or settles. -/
theorem tickAgentStepsExactlyWhileTheTimerRuns : Obligations.TickAgentStepsExactlyWhileTheTimerRuns :=
  ⟨fun _ _ hs ht => step_of_turn_runs hs (tickAction_running ht),
    fun _ _ hs ht => step_of_turn_settles hs (tickAction_stopped ht),
    fun _ hs ht => step_of_empty_running hs ht,
    fun _ hs ht => step_of_empty_stopped hs ht⟩

/-! ### The parts of a TICK under the invariant -/

/-- Under the invariant the slot at the cursor of a Playing engine is read (R33 (c), R21). -/
theorem EngineInv.exists_slotRead {s : State} (h : EngineInv s) (hplay : s.repeatCount ≠ 0) :
    ∃ bit, slotRead s s.curSlot.toNat = .ok bit := by
  have hcap : s.curSlot.toNat < Config.slotCapacity := (h.slot hplay).trans_le (h.count hplay).2
  obtain ⟨bit, hbit⟩ := Option.isSome_iff_exists.mp (h.written hplay _ hcap)
  exact ⟨bit, (slotRead_eq_ok_iff _ _ _).mpr ⟨hcap, hbit⟩⟩

/-- With the cursors in range, no counter of the advance wraps but by its own rule (R119 to R122). -/
theorem advance_cases_of_inRange {s : State} (hcap : s.slotCount.toNat ≤ Config.slotCapacity)
    (hslot : s.curSlot.toNat < s.slotCount.toNat) (hsub : s.curSub.toNat < Config.subslotsPerSlot) :
    (s.curSub.toNat < 41 ∧ (s.curSub + 1).toNat = s.curSub.toNat + 1 ∧ advance s = nextSubTick s) ∨
    (s.curSub.toNat = 41 ∧ s.curSlot.toNat + 1 < s.slotCount.toNat ∧ (s.curSlot + 1).toNat = s.curSlot.toNat + 1 ∧
      advance s = nextSlot s) ∨
    (s.curSub.toNat = 41 ∧ s.curSlot + 1 = s.slotCount ∧ s.repeatCount ≠ 1 ∧ advance s = replayPass s) ∨
    (s.curSub.toNat = 41 ∧ s.curSlot + 1 = s.slotCount ∧ s.repeatCount = 1 ∧ advance s = completeTransmission s) := by
  simp only [Config.slotCapacity, Config.subslotsPerSlot] at hcap hsub
  obtain ⟨h41, h⟩ | ⟨h41, hlast, h⟩ | hreplay | hdone := advance_cases s
  · exact .inl ⟨by omega, by bv_omega, h⟩
  · have hsucc : (s.curSlot + 1).toNat = s.curSlot.toNat + 1 := by bv_omega
    have hne : s.curSlot.toNat + 1 ≠ s.slotCount.toNat := fun e => hlast (BitVec.eq_of_toNat_eq (hsucc.trans e))
    exact .inr (.inl ⟨h41, by omega, hsucc, h⟩)
  · exact .inr (.inr (.inl hreplay))
  · exact .inr (.inr (.inr hdone))

/-! ### The instructions keep the invariant -/

/-- The line driven for the tick in progress, then the cursors advanced: the invariant holds again, and the level on the line
is that of the sub-tick just passed (R33 (d), R116, D6). -/
theorem EngineInv.after_drive_advance {s : State} {level : Level} (h : EngineInv s) (hplay : s.repeatCount ≠ 0)
    (hlevel : level = .active ↔ s.curSub.toNat % 2 = 0 ∧ slotLookup s.slots s.curSlot.toNat = some true) :
    EngineInv (advance (setOut level s)) := by
  have htimer := h.timer.mpr hplay
  have hcount := h.count hplay
  have hslot := h.slot hplay
  have hsub := h.sub hplay
  have hwritten := h.written hplay
  have inactive_at_end : s.curSub.toNat = 41 → level ≠ .active := fun h41 hact => by
    have := (hlevel.mp hact).1
    omega
  obtain ⟨h41, hsucc, ha⟩ | ⟨h41, hnext, hsucc, ha⟩ | ⟨h41, -, hrep, ha⟩ | ⟨-, hlast, hrep, ha⟩ :=
      advance_cases_of_inRange (s := setOut level s) hcount.2 hslot hsub <;>
    rw [ha] <;> simp only [setOut_curSub, setOut_curSlot, setOut_slotCount, setOut_repeatCount] at *
  · refine .of_playing hplay htimer hcount hslot ?_ ?_ h.memory hwritten h.bufferCount
    · rw [nextSubTick_curSub, setOut_curSub, hsucc]
      exact Nat.succ_lt_succ h41
    · rw [nextSubTick_curSub, setOut_curSub, hsucc]
      exact hlevel.trans (and_congr_left' (by omega))
  · refine .of_playing hplay htimer hcount (hsucc.trans_lt hnext) (by decide : 0 < 42) ?_ h.memory hwritten h.bufferCount
    exact iff_of_false (inactive_at_end h41) fun hodd => absurd hodd.1 Nat.zero_ne_one
  · have hmore : s.repeatCount - 1 ≠ 0 := by bv_omega
    refine .of_playing hmore htimer hcount hcount.1 (by decide : 0 < 42) ?_ h.memory hwritten h.bufferCount
    exact iff_of_false (inactive_at_end h41) fun hodd => absurd hodd.1 Nat.zero_ne_one
  · have hdone : s.repeatCount - 1 = 0 := by rw [hrep]; rfl
    exact .of_idle hdone rfl rfl (fun _ => ⟨rfl, hlast⟩) h.memory h.bufferCount

/-- TICK keeps the invariant. -/
theorem EngineInv.after_tick {s t : State} (h : EngineInv s) (ht : execTick s = .next t) : EngineInv t := by
  obtain ⟨-, rfl⟩ | ⟨hplay, bit, hread, rfl⟩ := execTick_cases ht
  · exact h
  · have hbit := ((slotRead_eq_ok_iff _ _ _).mp hread).2
    rw [driveSymbol_eq]
    refine h.after_drive_advance hplay ?_
    cases bit <;> simp [hbit, evenSubTick]

/-- An accepted ARM, from Idle with the line inactive, starts at sub-tick 0 of a written program (R105). -/
theorem EngineInv.after_load {s : State} (h : EngineInv s) (hidle : s.repeatCount = 0) (image : SlotImage) {n r : Nat}
    (hnr : acceptable n r) : EngineInv (loadProgram image n r s) := by
  obtain ⟨hn, hn', hr, hr'⟩ := hnr
  simp only [Config.slotCapacity, Config.maxRepeat] at hn' hr'
  have hcount : (BitVec.ofNat 9 n).toNat = n := (BitVec.toNat_ofNat n 9).trans (Nat.mod_eq_of_lt (by omega))
  have hrepeat : BitVec.ofNat 8 r ≠ 0 := by bv_omega
  refine .of_playing hrepeat rfl ?_ ?_ (by decide : 0 < 42) ?_ (wf_storedCells image) ?_ h.bufferCount
  · rw [loadProgram_slotCount, hcount]; exact ⟨hn, hn'⟩
  · rw [loadProgram_slotCount, hcount]; exact hn
  · simp [h.idleOut hidle]
  · intro k hk
    simp [slotLookup_storedCells, hk]

/-- STOP, where it exists, leaves an Idle engine with its cursors anywhere (R33 (e), R109). -/
theorem EngineInv.after_stop {s : State} (h : EngineInv s) (hstop : s.hasStop = true) : EngineInv (stopEngine s) :=
  .of_idle rfl rfl rfl (fun hno => absurd (hstop.symm.trans hno) (by decide)) h.memory h.bufferCount

/-! ### The host's buffer stays within the slot capacity (R97) -/

theorem emitSymbol_buffer (vs : List Bool) (s : State) :
    (emitSymbol vs s).buffer = (emitAll Config.slotCapacity vs s.buffer).1 := by
  obtain ⟨-, h⟩ | ⟨-, h⟩ := emitSymbol_cases vs s <;> rw [h] <;> rfl

theorem sendPacket_buffer (p : ProtocolPacket) (r : Nat) (s : State) :
    (sendPacket p r s).buffer = (buildFrame Config.slotCapacity (framePacket p) s.buffer).1 := by
  rw [sendPacket_eq, armEngine_buffer, setBuffer_buffer]

/-- BUILD starts at count 0, so its count is in range whatever the buffer held. -/
theorem buildFrame_count_le (f : RawFrame) (b : SlotBuffer) :
    (buildFrame Config.slotCapacity f b).1.count ≤ Config.slotCapacity :=
  emitAll_count_le _ _ _ (Nat.zero_le _)

/-- No HOST instruction takes the host's count past the capacity. -/
theorem exec_buffer_count_le {i : Instr} (hi : i.hostIssued = true) {s t : State} (hexec : exec i s = .next t)
    (h : s.buffer.count ≤ Config.slotCapacity) : t.buffer.count ≤ Config.slotCapacity := by
  have emits : ∀ vs, (emitSymbol vs s).buffer.count ≤ Config.slotCapacity := fun vs => by
    rw [emitSymbol_buffer]; exact emitAll_count_le _ _ _ h
  have sends : ∀ p r, (sendPacket p r s).buffer.count ≤ Config.slotCapacity := fun p r => by
    rw [sendPacket_buffer]; exact buildFrame_count_le _ _
  cases i with
  | mark => cases hi
  | space => cases hi
  | tick => cases hi
  | isIdle => cases hexec; exact h
  | arm image n r => cases hexec; rwa [armEngine_buffer]
  | stop => cases hexec; split <;> exact h
  | start => cases hexec; exact emits _
  | bit0 => cases hexec; exact emits _
  | bit1 => cases hexec; exact emits _
  | stopmark => cases hexec; exact emits _
  | byte b => cases hexec; exact emits _
  | encode st => cases hexec; exact h
  | frame p => cases hexec; exact h
  | build f =>
    rw [exec_build, execBuild_eq] at hexec
    cases hexec
    exact buildFrame_count_le f s.buffer
  | encodeAndSend st => cases hexec; exact sends _ _
  | sendFixedCommand p r => cases hexec; exact sends p r

/-! ### Every step keeps the invariant -/

/-- A HOST instruction keeps the invariant: the block stays, or an accepted ARM loads it, or STOP stops it. -/
theorem EngineInv.after_hostIssued {i : Instr} {s t : State} (h : EngineInv s) (hi : i.hostIssued = true)
    (hexec : exec i s = .next t) : EngineInv t := by
  have hbuffer := exec_buffer_count_le hi hexec h.bufferCount
  obtain ⟨u, hu, heffect, -, hstrap⟩ := exec_hostIssued hi s
  obtain rfl : u = t := by simpa [hu] using hexec
  cases heffect with
  | nothing same => exact h.of_sameBlock same hstrap hbuffer
  | loads image n r hidle inRange block _ _ => exact (h.after_load hidle image inRange).of_sameBlock block hstrap hbuffer
  | stops _ hstop state => exact state ▸ h.after_stop hstop

/-- Settles O3, by the cases of a step: the turn is taken, then nothing runs, or TICK, or an instruction of the HOST. -/
theorem stepKeepsTheInvariant : Obligations.StepKeepsTheInvariant := by
  intro s t h hst
  have htaken := h.after_turn_taken
  obtain ⟨-, hstep⟩ | hstep | hstep | ⟨-, hstep⟩ | ⟨i, hi, hstep⟩ | ⟨r, hstep⟩ := step_cases s <;> rw [hstep] at hst
  · cases hst; exact htaken
  · cases hst; exact htaken.of_sameBlock (sameBlock_returnStatus _ _) rfl htaken.bufferCount
  · cases hst; exact engineInv_powerUpState _
  · exact htaken.after_tick hst
  · exact htaken.after_hostIssued hi hst
  · cases hst

/-! ### No run faults -/

/-- Under the invariant a running timer's TICK reads a written slot of the slot space, and nothing else can fault (R46). -/
theorem EngineInv.step_ne_fault {s : State} (h : EngineInv s) (f : Fault) : step s ≠ .fault f := by
  obtain ⟨-, hstep⟩ | hstep | hstep | ⟨ht, hstep⟩ | ⟨i, hi, hstep⟩ | ⟨r, hstep⟩ := step_cases s <;> rw [hstep]
  · simp
  · simp
  · simp
  · have hplay : (taken s).repeatCount ≠ 0 := h.timer.mp ht
    obtain ⟨bit, hread⟩ := h.after_turn_taken.exists_slotRead hplay
    simp [execTick_playing hplay hread]
  · obtain ⟨t, ht, -⟩ := exec_hostIssued hi (taken s)
    simp [ht]
  · simp

/-- No run from a state that meets the invariant faults, by induction on its steps. -/
theorem EngineInv.run_ne_fault (k : Nat) {s : State} (h : EngineInv s) (f : Fault) : run k s ≠ .fault f := by
  induction k generalizing s with
  | zero => simp
  | succ k ih =>
    cases hst : step s with
    | next t => rw [run_succ_of_step hst]; exact ih (stepKeepsTheInvariant s t h hst)
    | fault g => exact absurd hst (h.step_ne_fault g)
    | refused r => simp [run, hst]

/-- Settles O5: the reset state meets the invariant, which rules out a fault on every run. -/
theorem noRunFromResetFaults : Obligations.NoRunFromResetFaults :=
  fun turns strap k f => (resetMeetsTheInvariant turns strap).run_ne_fault k f

/-! ### One tick fewer to go after every TICK -/

/-- The ticks left, on the counts and cursors as numbers: `passes` full passes of `n` slots, then slots `k` to `n` less the
sub-ticks done. -/
theorem ticksLeft_eq {s : State} {n k sub passes : Nat} (hn : s.slotCount.toNat = n) (hk : s.curSlot.toNat = k)
    (hsub : s.curSub.toNat = sub) (hpasses : s.repeatCount.toNat - 1 = passes) :
    ticksLeft s = 42 * n * passes + (42 * (n - k) - sub) := by
  rw [ticksLeft, hn, hk, hsub, hpasses, Config.subslotsPerSlot]

/-- The advance of the cursors takes one tick off (R30, R124). -/
theorem ticksLeft_eq_advance {s : State} (hplay : s.repeatCount ≠ 0) (hcap : s.slotCount.toNat ≤ Config.slotCapacity)
    (hslot : s.curSlot.toNat < s.slotCount.toNat) (hsub : s.curSub.toNat < Config.subslotsPerSlot) :
    ticksLeft s = ticksLeft (advance s) + 1 := by
  obtain ⟨h41, hsucc, ha⟩ | ⟨h41, hnext, hsucc, ha⟩ | ⟨h41, hlast, hrep, ha⟩ | ⟨h41, hlast, hrep, ha⟩ :=
    advance_cases_of_inRange hcap hslot hsub <;> rw [ha]
  · rw [ticksLeft_eq rfl rfl rfl rfl, ticksLeft_eq (s := nextSubTick s) rfl rfl hsucc rfl]
    simp only [nextSubTick_slotCount, nextSubTick_repeatCount, nextSubTick_curSlot]
    omega
  · rw [ticksLeft_eq rfl rfl h41 rfl, ticksLeft_eq (s := nextSlot s) (sub := 0) rfl hsucc rfl rfl]
    simp only [nextSlot_slotCount, nextSlot_repeatCount]
    omega
  · have hcount : s.slotCount.toNat = s.curSlot.toNat + 1 := by bv_omega
    obtain ⟨p, hp⟩ : ∃ p, s.repeatCount.toNat - 1 = p + 1 := ⟨s.repeatCount.toNat - 2, by bv_omega⟩
    have hp' : (s.repeatCount - 1).toNat - 1 = p := by bv_omega
    rw [ticksLeft_eq hcount rfl h41 hp, ticksLeft_eq (s := replayPass s) (k := 0) (sub := 0) hcount rfl rfl hp', Nat.mul_succ]
    omega
  · have hcount : s.slotCount.toNat = s.curSlot.toNat + 1 := by bv_omega
    have hp : s.repeatCount.toNat - 1 = 0 := by rw [hrep]; rfl
    have hp' : (s.repeatCount - 1).toNat - 1 = 0 := by rw [hrep]; rfl
    have hend : (s.curSlot + 1).toNat = s.curSlot.toNat + 1 := hlast ▸ hcount
    rw [ticksLeft_eq hcount rfl h41 hp, ticksLeft_eq (s := completeTransmission s) (sub := 0) hcount hend rfl hp']
    omega

/-- Settles O21: a TICK in Playing drives the line, which the ticks left do not count on, then advances the cursors. -/
theorem everyTickAdvancesTheTransmissionByOne : Obligations.EveryTickAdvancesTheTransmissionByOne := by
  intro s t h hplay hexec
  obtain ⟨hidle, -⟩ | ⟨-, bit, -, rfl⟩ := execTick_cases hexec
  · exact absurd hidle hplay
  · obtain ⟨level, hdrive⟩ : ∃ level, driveSymbol bit s = setOut level s := ⟨_, driveSymbol_eq bit s⟩
    rw [hdrive]
    exact ticksLeft_eq_advance (s := setOut level s) hplay (h.count hplay).2 (h.slot hplay) (h.sub hplay)

end Sys2Proof.Machine
end

section
/-! PROOFS. The statements on memory (20_memory.md): the reads TICK makes of the slot space, its canonical form, its one
writer at a time, and the byte image of a slot program. -/

namespace Sys2Proof.Machine

/-! ### The reads and the canonical form of the slot space -/

/-- Settles O4: of all the steps only TICK reads the slot space, and the invariant gives it a written slot. -/
theorem invariantRulesOutFaults : Obligations.InvariantRulesOutFaults :=
  fun _ f h => h.step_ne_fault f

/-- Settles O12: each of the two operations on the slot space keeps the form. -/
theorem slotStoresKeepTheCanonicalForm : Obligations.SlotStoresKeepTheCanonicalForm :=
  ⟨wf_storedCells, fun k b cells hk hcells => wf_setCell k b cells hk hcells⟩

/-! ### The program is not written while it plays -/

@[simp] theorem driveSymbol_slots (bit : Bool) (s : State) : (driveSymbol bit s).slots = s.slots := by
  rw [driveSymbol_eq, setOut_slots]

@[simp] theorem driveSymbol_slotCount (bit : Bool) (s : State) : (driveSymbol bit s).slotCount = s.slotCount := by
  rw [driveSymbol_eq, setOut_slotCount]

@[simp] theorem advance_slots (s : State) : (advance s).slots = s.slots := by
  obtain ⟨-, h⟩ | ⟨-, -, h⟩ | ⟨-, -, -, h⟩ | ⟨-, -, -, h⟩ := advance_cases s <;> rw [h] <;> rfl

@[simp] theorem advance_slotCount (s : State) : (advance s).slotCount = s.slotCount := by
  obtain ⟨-, h⟩ | ⟨-, -, h⟩ | ⟨-, -, -, h⟩ | ⟨-, -, -, h⟩ := advance_cases s <;> rw [h] <;> rfl

/-- TICK stores nothing (R51, R116). -/
theorem execTick_slots_slotCount {s t : State} (h : execTick s = .next t) :
    t.slots = s.slots ∧ t.slotCount = s.slotCount := by
  obtain ⟨-, rfl⟩ | ⟨-, bit, -, rfl⟩ := execTick_cases h
  · exact ⟨rfl, rfl⟩
  · simp

/-- A HOST instruction that answers a next state has one of the three effects on the block. -/
theorem hostEffect_of_exec {i : Instr} (hi : i.hostIssued = true) {s t : State} (h : exec i s = .next t) :
    HostEffect i s t := by
  obtain ⟨u, hu, heffect, -⟩ := exec_hostIssued hi s
  obtain rfl : u = t := by simpa [hu] using h
  exact heffect

/-- While Playing ARM is refused, so a HOST instruction leaves the block or is a STOP (R106, D7). -/
theorem HostEffect.sameBlock_or_stops {i : Instr} {s t : State} (h : HostEffect i s t) (hplay : s.repeatCount ≠ 0) :
    SameBlock s t ∨ (i = .stop ∧ t = stopEngine s) := by
  cases h with
  | nothing same => exact .inl same
  | loads image n r hidle _ _ _ _ => exact absurd hidle hplay
  | stops isStop _ state => exact .inr ⟨isStop, state⟩

/-- While Playing no instruction writes the program: MARK and SPACE drive the line, TICK moves the cursors, and of the HOST's
instructions none but STOP writes the block, which leaves the program (R51). -/
theorem exec_slots_slotCount_of_playing {i : Instr} {s t : State} (hplay : s.repeatCount ≠ 0) (h : exec i s = .next t) :
    t.slots = s.slots ∧ t.slotCount = s.slotCount := by
  have of_host (hi : i.hostIssued = true) : t.slots = s.slots ∧ t.slotCount = s.slotCount := by
    obtain same | ⟨-, rfl⟩ := (hostEffect_of_exec hi h).sameBlock_or_stops hplay
    · exact ⟨same.slots, same.slotCount⟩
    · exact ⟨rfl, rfl⟩
  cases i with
  | mark => cases h; exact ⟨rfl, rfl⟩
  | space => cases h; exact ⟨rfl, rfl⟩
  | tick => exact execTick_slots_slotCount h
  | _ => exact of_host rfl

/-- Settles O34: an idle TICK is the identity, and while Playing the HOST's effects on the block come down to STOP. -/
theorem oneWriterAtATime : Obligations.OneWriterAtATime := by
  refine ⟨fun s t hidle h => ?_, fun i s t hplay hi hstop h => ?_, fun i s t hplay h => ?_⟩
  · rw [exec_tick, execTick_idle hidle] at h
    cases h; rfl
  · obtain same | ⟨hstop', -⟩ := (hostEffect_of_exec hi h).sameBlock_or_stops hplay
    · exact same
    · exact absurd hstop' hstop
  · obtain ⟨hslots, hcount⟩ := exec_slots_slotCount_of_playing hplay h
    exact ⟨slotRead_congr hslots, hcount⟩

/-! ### The byte image of a slot program (R44, R62, D15) -/

/-- Byte `j` of the byte image is the eight slots from slot `8 * j` on. -/
theorem getD_imageBytes (image : SlotImage) {j : Nat} (hj : j < 32) :
    (imageBytes image).getD j 0 = image.extractLsb' (8 * j) 8 := by
  simp [imageBytes, hj]

/-- The values of a function on `n` runs of `w` consecutive indices are its values on the first `w * n`. -/
theorem flatMap_range_map_mul {α : Type} (f : Nat → α) (w n : Nat) :
    ((List.range n).flatMap fun j => (List.range w).map fun i => f (w * j + i)) = (List.range (w * n)).map f := by
  induction n with
  | zero => rfl
  | succ n ih =>
    rw [List.range_succ, List.flatMap_append, ih, List.flatMap_singleton, Nat.mul_succ, List.range_add, List.map_append,
      List.map_map, Function.comp_def]

/-- The bytes' bits in order, bit 0 of each byte first, are the slots in order. -/
theorem flatMap_imageBytes (image : SlotImage) :
    ((imageBytes image).flatMap fun b => (List.range 8).map b.getLsbD) = programSlots image 256 := by
  have byte_bits : ∀ j, (List.range 8).map (image.extractLsb' (8 * j) 8).getLsbD =
      (List.range 8).map fun i => image.getLsbD (8 * j + i) := fun j =>
    List.map_congr_left fun i hi => by simp [List.mem_range.mp hi]
  rw [imageBytes, List.flatMap_map]
  simp only [byte_bits]
  exact flatMap_range_map_mul image.getLsbD 8 32

/-- An image is made again from all its slots. -/
theorem imageOfSlots_programSlots (image : SlotImage) : imageOfSlots (programSlots image 256) = image := by
  refine BitVec.eq_of_getLsbD_eq fun k hk => ?_
  rw [getLsbD_imageOfSlots _ k hk]
  simp [programSlots, hk]

/-- Settles O58: slot `k` is read in its byte, and the bytes' bits in order are all the slots the image is made of. -/
theorem byteImagePacksEightSlotsAByte : Obligations.ByteImagePacksEightSlotsAByte := by
  intro image
  refine ⟨by simp [imageBytes], fun k hk => ?_, ?_⟩
  · have hbit : k % 8 < 8 := Nat.mod_lt k (by decide)
    rw [getD_imageBytes image (by omega), BitVec.getLsbD_extractLsb', Nat.div_add_mod]
    simp [hbit]
  · rw [imageOfBytes, flatMap_imageBytes, imageOfSlots_programSlots]

end Sys2Proof.Machine
end

section
/-! PROOFS. The statements on the encodings (30_encoding.md): the expansions of the pulse symbols, the command word read by
its fields, decode as the inverse of encode, and the listings of slot programs. -/

namespace Sys2Proof.Machine

/-! ### The command word, by its operation code (R63, R74) -/

theorem decode_command_of_op_zero {w : CommandWord} (h : (commandOp w).toNat = 0) : decode (.command w) = .ok .isIdle := by
  simp only [decode, decodeCommand, h]

theorem decode_command_of_op_one {w : CommandWord} (h : (commandOp w).toNat = 1) :
    decode (.command w) = .ok (.arm (commandSlots w) (commandSlotCount w).toNat (commandRepeat w).toNat) := by
  simp only [decode, decodeCommand, h]

theorem decode_command_of_op_two {w : CommandWord} (h : (commandOp w).toNat = 2) : decode (.command w) = .ok .stop := by
  simp only [decode, decodeCommand, h]

theorem decode_command_of_op_three {w : CommandWord} (h : (commandOp w).toNat = 3) :
    decode (.command w) = .error .reservedOperation := by
  simp only [decode, decodeCommand, h]

theorem toNat_commandOp (w : CommandWord) : (commandOp w).toNat = w.toNat % 4 := by
  simp [commandOp, BitVec.extractLsb'_toNat]

theorem toNat_commandRepeat (w : CommandWord) : (commandRepeat w).toNat = w.toNat / 2 ^ 2 % 2 ^ 8 := by
  rw [commandRepeat, BitVec.extractLsb'_toNat, Nat.shiftRight_eq_div_pow]

theorem toNat_commandSlotCount (w : CommandWord) : (commandSlotCount w).toNat = w.toNat / 2 ^ 10 % 2 ^ 9 := by
  rw [commandSlotCount, BitVec.extractLsb'_toNat, Nat.shiftRight_eq_div_pow]

theorem getLsbD_commandSlots (w : CommandWord) {k : Nat} (hk : k < 256) :
    (commandSlots w).getLsbD k = w.getLsbD (19 + k) := by
  simp [commandSlots, hk]

/-- Settles O57: the operation code is the word mod 4, and ARM's operands are the other fields, each at its place. -/
theorem commandWordFieldsAreRead : Obligations.CommandWordFieldsAreRead := by
  intro w
  rw [← toNat_commandOp, ← toNat_commandRepeat, ← toNat_commandSlotCount]
  exact ⟨decode_command_of_op_zero,
    fun h => ⟨commandSlots w, decode_command_of_op_one h, fun _ hk => getLsbD_commandSlots w hk⟩,
    decode_command_of_op_two, decode_command_of_op_three⟩

/-! ### The reserved operations (R74 (c), D14) -/

theorem execStop_without_strap {s : State} (h : s.hasStop = false) : execStop s = .next (returnStatus .invalidArgument s) := by
  simp only [execStop, h, Bool.false_eq_true, if_false]

theorem turnAction_command_of_reject {w : CommandWord} {e : Reject} (h : decode (.command w) = .error e) (s : State) :
    turnAction (.command w) s = .settle (returnStatus .invalidArgument s) := by
  simp only [turnAction, h]

/-- The two low bits of a command word are its operation code. -/
theorem commandOp_of_low_bits {w : CommandWord} (h0 : w.getLsbD 0 = true) (h1 : w.getLsbD 1 = true) : commandOp w = 0b11 := by
  refine BitVec.eq_of_getLsbD_eq fun i hi => ?_
  rw [commandOp, BitVec.getLsbD_extractLsb']
  obtain rfl | rfl : i = 0 ∨ i = 1 := by omega
  · simp [h0]
  · simp [h1]

/-- Settles O32: STOP without the strap answers as a reserved code does, and a rejected command word settles the turn. -/
theorem reservedOperationsReturnInvalidArgument : Obligations.ReservedOperationsReturnInvalidArgument := by
  refine ⟨fun s hstop => execStop_without_strap hstop, fun s w rest hs h0 h1 => ?_⟩
  have hop : (commandOp w).toNat = 3 := congrArg BitVec.toNat (commandOp_of_low_bits h0 h1)
  exact step_of_turn_settles hs (turnAction_command_of_reject (decode_command_of_op_three hop) _)

/-! ### The pulse symbols -/

/-- Settles O39: each expansion as the tables write it, and a BYTE's length by its one bits. -/
theorem pulseSymbolsExpandToTheirSlots : Obligations.PulseSymbolsExpandToTheirSlots := by
  refine ⟨rfl, rfl, rfl, rfl, fun b => ⟨byteSlots b, rfl, ?_, ?_⟩⟩
  · rw [length_byteSlots, count_byteBits]
  · rw [byteSlots, List.flatMap_def]
    rfl

/-- The pairs of run lengths of a list of bit symbols (R75). -/
theorem pulseWidths_flatMap_bitSlots (ds : List Bool) :
    pulseWidths (runsOf (ds.flatMap bitSlots)) = some (ds.map bitWidths) := by
  have h := pulseWidths_bits ds [] (by simp)
  simpa [runsOf, pulseWidths] using h

/-- Eight bit symbols are read as the BYTE of their bits: eight pairs are none of the one-pair symbols (R72, R75). -/
theorem decode_symbol_of_eight_bits {ds : List Bool} (h : ds.length = 8) :
    decode (.symbol (ds.flatMap bitSlots)) = .ok (.byte (byteOfBits ds)) := by
  rw [decode, decodeSymbol, pulseWidths_flatMap_bitSlots]
  have one_pair (p : Nat × Nat) : ds.map bitWidths ≠ [p] := fun hp => by
    simpa [h] using congrArg List.length hp
  split
  case h_1 heq | h_2 heq | h_3 heq | h_4 heq => exact absurd (Option.some.inj heq) (one_pair _)
  · obtain rfl := Option.some.inj ‹_›
    rw [if_pos (by rw [List.length_map, h]), dataBits_map_bitWidths]
  · exact absurd ‹_› (Option.some_ne_none _)

/-! ### Decode of encode -/

/-- A well-formed ARM's operands fit the fields of its word, so the word gives them back (R63, R64). -/
theorem decode_command_arm (slots : SlotImage) {n r : Nat} (hn : n < 2 ^ 9) (hr : r < 2 ^ 8) :
    decode (.command (commandWord slots (BitVec.ofNat 9 n) (BitVec.ofNat 8 r) 0b01)) = .ok (.arm slots n r) := by
  rw [decode_command_of_op_one (by rw [commandOp_commandWord]; rfl), commandSlots_commandWord, commandSlotCount_commandWord,
    commandRepeat_commandWord, BitVec.toNat_ofNat, BitVec.toNat_ofNat, Nat.mod_eq_of_lt hn, Nat.mod_eq_of_lt hr]

/-- Settles O56, instruction by instruction: ARM by its fields, BYTE by its eight bit symbols, the others by their one
word. -/
theorem decodeInvertsEncode : Obligations.DecodeInvertsEncode := by
  intro i e hwf henc
  cases i with
  | mark => cases henc; rfl
  | space => cases henc; rfl
  | isIdle => cases henc; exact decode_command_of_op_zero (by rw [commandOp_commandWord]; rfl)
  | arm slots n r =>
    obtain ⟨hn, hr⟩ : n < 2 ^ 9 ∧ r < 2 ^ 8 := by simpa [Instr.wf] using hwf
    cases henc; exact decode_command_arm slots hn hr
  | stop => cases henc; exact decode_command_of_op_two (by rw [commandOp_commandWord]; rfl)
  | start => cases henc; rfl
  | bit0 => cases henc; rfl
  | bit1 => cases henc; rfl
  | stopmark => cases henc; rfl
  | byte b =>
    cases henc
    rw [byteSlots, decode_symbol_of_eight_bits (length_byteBits b), byteOfBits_byteBits]
  | tick => cases henc
  | encode st => cases henc
  | frame p => cases henc
  | build f => cases henc
  | encodeAndSend st => cases henc
  | sendFixedCommand p r => cases henc

/-- Settles O60: each of the words is the encoding of its instruction. -/
theorem sampleWordsDecode : Obligations.SampleWordsDecode :=
  ⟨decodeInvertsEncode .mark _ rfl rfl, decodeInvertsEncode .space _ rfl rfl,
    decodeInvertsEncode .isIdle _ rfl (by decide), decodeInvertsEncode .stop _ rfl (by decide),
    decodeInvertsEncode (.arm 0b01 2 1) _ rfl (by decide),
    decodeInvertsEncode .start _ rfl rfl, decodeInvertsEncode .stopmark _ rfl rfl⟩

/-! ### Listings (R76, D23) -/

@[simp] theorem listingSlots_nil : listingSlots [] = [] := rfl

@[simp] theorem listingSlots_cons (token : Token) (rest : List Token) :
    listingSlots (token :: rest) = tokenSlots token ++ listingSlots rest := List.flatMap_cons

/-- The BYTE token's slots, written out bit by bit from bit 7 (R72). -/
theorem tokenSlots_byte (b : Byte) : tokenSlots (.byte b) =
    [7, 6, 5, 4, 3, 2, 1, 0].flatMap fun i => if b.getLsbD i then [true, false, false, false] else [true, false] := by
  rw [tokenSlots, byteSlots, byteBits, List.flatMap_map]
  rfl

/-- FRAME's complement is the exclusive or with 0xFF (R90). -/
theorem framePacket_eq_xor (p : ProtocolPacket) :
    framePacket p = ⟨p.p0, p.p0 ^^^ 0xFF, p.p1, p.p1 ^^^ 0xFF, p.p2, p.p2 ^^^ 0xFF⟩ := by
  have complement (b : Byte) : ~~~b = b ^^^ 0xFF := BitVec.xor_allOnes.symm
  simp only [framePacket, complement]

/-- The listing of a frame: START, its six bytes, STOPMARK (R73). -/
theorem frameSlots_eq_listingSlots (f : RawFrame) : frameSlots f =
    listingSlots [.start, .byte f.f0, .byte f.f1, .byte f.f2, .byte f.f3, .byte f.f4, .byte f.f5, .stopmark] := by
  simp [frameSlots, RawFrame.bytes, tokenSlots]

/-- A run that fits the slot space is the program of its image (R62). -/
theorem programSlots_imageOfSlots {slots : List Bool} (h : slots.length ≤ 256) :
    programSlots (imageOfSlots slots) slots.length = slots := by
  refine List.ext_getElem (by simp [programSlots]) fun k _ hk => ?_
  simp [programSlots, getLsbD_imageOfSlots slots k (by omega), hk]

/-- BUILD returns a program whose slots are its frame's (R73, R95). -/
theorem programSlots_of_exec_build {f : RawFrame} {s t : State} {b : SlotBuffer} (h : exec (.build f) s = .next t)
    (hb : t.result = .program b) : programSlots b.bits b.count = frameSlots f := by
  rw [exec_build, execBuild_eq] at h
  cases h; cases hb
  exact programSlots_buildFrame f s.buffer

/-- Settles O59, clause by clause: the tokens, the frame's token, the listing, the script's lines, the listed ARM and BUILD. -/
theorem listedProgramIsArmedAsWritten : Obligations.ListedProgramIsArmedAsWritten := by
  refine ⟨fun _ => ⟨rfl, rfl⟩, rfl, rfl, rfl, tokenSlots_byte, rfl, fun p => ?_,
    ⟨listingSlots_nil, listingSlots_cons⟩, fun _ _ => rfl, ⟨rfl, rfl, fun _ => rfl⟩,
    fun program _ hlen => ⟨_, rfl, programSlots_imageOfSlots hlen⟩, fun p s t b h hb => ?_⟩
  · rw [tokenSlots, frameSlots_eq_listingSlots, framePacket_eq_xor]
  · rw [programSlots_of_exec_build h hb, listingSlots_cons, listingSlots_nil, List.append_nil, tokenSlots]

end Sys2Proof.Machine
end

section
/-! PROOFS. The statements on the packet encoder (40_packet_encoder.md): the off packet, the nibbles of an enabled state
table by table, and what the HOST's software leaves unchanged. -/

namespace Sys2Proof.Machine

/-! ### The packet, nibble by nibble (R82, R83, R67) -/

theorem fanNibble_of_auto {st : ACState} (h : st.mode = .auto) : fanNibble st = Config.fanAuto := if_pos h

theorem fanNibble_of_not_auto {st : ACState} (h : st.mode ≠ .auto) : fanNibble st = Config.fanTable st.fanLevel := if_neg h

theorem tempNibble_of_fan {st : ACState} (h : st.mode = .fan) : tempNibble st = Config.tempNa := if_pos h

/-- The table's index is the temperature less 17 (R83, R84). -/
theorem tempNibble_of_inRange {st : ACState} (h : st.mode ≠ .fan) (k : Fin 14)
    (hk : st.temperature = 17 + (k.val : Int)) : tempNibble st = Config.tempTable k := by
  have hrange : 17 ≤ st.temperature ∧ st.temperature ≤ 30 := by omega
  have hindex : (st.temperature - 17).toNat = k.val := by omega
  rw [tempNibble, if_neg h, dif_pos hrange]
  exact congrArg Config.tempTable (Fin.ext hindex)

theorem tempNibble_of_outOfRange {st : ACState} (h : st.mode ≠ .fan)
    (hout : st.temperature < 17 ∨ 30 < st.temperature) : tempNibble st = Config.tempFallback := by
  rw [tempNibble, if_neg h, dif_neg (by omega)]

theorem encodePacket_of_disabled {st : ACState} (h : st.enabled = false) : encodePacket st = Config.offPacket :=
  if_neg (Bool.eq_false_iff.mp h)

theorem encodePacket_of_enabled {st : ACState} (h : st.enabled = true) : encodePacket st =
    ⟨Config.magic, fanNibble st ++ Config.stateOn, tempNibble st ++ Config.cmdCode st.mode⟩ := if_pos h

/-- ENCODE returns the packet to its caller and does nothing else. -/
theorem exec_encode_of_packet {st : ACState} {p : ProtocolPacket} (h : encodePacket st = p) (s : State) :
    exec (.encode st) s = .next { s with result := .packet p } := by
  rw [exec_encode, execEncode, h, returnResult]

/-- Settles O42: the packet of a disabled state is the constant. -/
theorem disabledStateEncodesToTheOffPacket : Obligations.DisabledStateEncodesToTheOffPacket :=
  fun _ s hoff => exec_encode_of_packet (encodePacket_of_disabled hoff) s

/-- Settles O43: the fan and the temperature nibble, each by the case of its table. -/
theorem enabledStateEncodesByTheTables : Obligations.EnabledStateEncodesByTheTables :=
  fun st s hon => ⟨fanNibble st, tempNibble st, exec_encode_of_packet (encodePacket_of_enabled hon) s,
    fanNibble_of_auto, fanNibble_of_not_auto, tempNibble_of_fan,
    fun k hmode hk => tempNibble_of_inRange hmode k hk, tempNibble_of_outOfRange⟩

/-! ### What the host software leaves unchanged -/

/-- An instruction that neither arms nor stops has no effect on the block. -/
theorem HostEffect.sameBlock {i : Instr} {s t : State} (h : HostEffect i s t) (harm : ∀ image n r, i ≠ .arm image n r)
    (hstop : i ≠ .stop) (hsend : ∀ st, i ≠ .encodeAndSend st) (hfixed : ∀ p r, i ≠ .sendFixedCommand p r) :
    SameBlock s t := by
  cases h with
  | nothing same => exact same
  | loads _ _ _ _ _ _ _ source =>
    obtain ⟨image, n, r, hi⟩ | ⟨st, hi⟩ | ⟨p, r, hi⟩ := source
    · exact absurd hi (harm image n r)
    · exact absurd hi (hsend st)
    · exact absurd hi (hfixed p r)
  | stops isStop _ _ => exact absurd isStop hstop

/-- A HOST instruction takes no turn and moves no strap. -/
theorem exec_hostIssued_schedule_hasStop {i : Instr} (hi : i.hostIssued = true) {s t : State} (h : exec i s = .next t) :
    t.schedule = s.schedule ∧ t.hasStop = s.hasStop := by
  obtain ⟨u, hu, -, hkeep⟩ := exec_hostIssued hi s
  obtain rfl : u = t := by simpa [hu] using h
  exact hkeep

/-- IS_IDLE, ENCODE and FRAME return a result and leave the host's buffer (R82, R90, R108). -/
theorem exec_buffer_of_reply {i : Instr} {s t : State}
    (hi : i = .isIdle ∨ (∃ st, i = .encode st) ∨ ∃ p, i = .frame p) (h : exec i s = .next t) : t.buffer = s.buffer := by
  obtain rfl | ⟨st, rfl⟩ | ⟨p, rfl⟩ := hi <;> cases h <;> exact returnResult_buffer _ s

/-- Settles O53: only the four instructions left out load or stop the block, so no effect on it remains. -/
theorem hostSoftwareLeavesTheBlockAlone : Obligations.HostSoftwareLeavesTheBlockAlone := by
  intro i s t hi harm hstop hsend hfixed h
  have same : SameBlock s t := (hostEffect_of_exec hi h).sameBlock harm hstop hsend hfixed
  obtain ⟨hschedule, hstrap⟩ := exec_hostIssued_schedule_hasStop hi h
  exact ⟨same, slotRead_congr same.slots, hschedule, hstrap, fun hreply => exec_buffer_of_reply hreply h⟩

end Sys2Proof.Machine
end

section
/-! PROOFS. The statements on the frame builder (41_frame_builder.md): each byte followed by its complement, and what this
fixes about the built program whatever the packet is. -/

namespace Sys2Proof.Machine

/-- Settles O44: FRAME returns the bytes and their complements, read as exclusive ors with 0xFF, and does nothing else. -/
theorem frameAppendsComplements : Obligations.FrameAppendsComplements := by
  intro p s
  rw [exec_frame, execFrame, framePacket_eq_xor, returnResult]

/-! ### The complement invariant and the one bits (R91) -/

/-- A byte and its complement differ in every bit. -/
theorem xor_complement_eq_ff (b : Byte) : b ^^^ ~~~b = 0xFF := by
  rw [← BitVec.xor_allOnes, ← BitVec.xor_assoc, BitVec.xor_self, BitVec.zero_xor]
  rfl

theorem byteBits_complement (b : Byte) : byteBits (~~~b) = (byteBits b).map (!·) := by
  simp [byteBits]

/-- Each of the eight bits is one in the byte or in its complement, and never in both. -/
theorem popcount_add_popcount_complement (b : Byte) : popcount b + popcount (~~~b) = 8 := by
  have hzeros : popcount (~~~b) = (byteBits b).count false := by
    rw [← count_byteBits, byteBits_complement]
    exact List.count_map_of_injective _ not Bool.not_injective false
  rw [hzeros, ← count_byteBits, List.count_true_add_count_false, length_byteBits]

/-- The three pairs of a packet's frame carry eight one bits each. -/
theorem framePopcount_framePacket (p : ProtocolPacket) : framePopcount (framePacket p) = 24 := by
  have h0 := popcount_add_popcount_complement p.p0
  have h1 := popcount_add_popcount_complement p.p1
  have h2 := popcount_add_popcount_complement p.p2
  simp only [framePopcount, framePacket, RawFrame.bytes, List.map_cons, List.map_nil, List.sum_cons, List.sum_nil]
  omega

/-! ### The slot count of a built program (R96) -/

/-- BUILD completes in every state and returns a program of 121 slots, and two more for each one bit of the frame. -/
theorem exists_exec_build_count (f : RawFrame) (s : State) :
    ∃ t b, exec (.build f) s = .next t ∧ t.result = .program b ∧ b.count = 121 + 2 * framePopcount f := by
  have hcount := (buildFrame_ok Config.slotCapacity (by decide) (by decide) f s.buffer).2.1
  rw [length_frameSlots, frameOnes_eq] at hcount
  exact ⟨_, _, execBuild_eq f s, rfl, hcount⟩

/-- Settles O45: the frame returned is the packet's own, so its one bits, and with them the length of its program, are the
same for every packet. -/
theorem producedFramesHaveTwentyFourOnes : Obligations.ProducedFramesHaveTwentyFourOnes := by
  intro p s t f hexec hresult
  obtain rfl : framePacket p = f := by cases hexec; cases hresult; rfl
  have hones := framePopcount_framePacket p
  obtain ⟨u, b, hbuild, hprogram, hcount⟩ := exists_exec_build_count (framePacket p) t
  rw [hones] at hcount
  exact ⟨xor_complement_eq_ff _, xor_complement_eq_ff _, xor_complement_eq_ff _, hones, u, b, hbuild, hprogram, hcount⟩

end Sys2Proof.Machine
end

section
/-! PROOFS. The statements on the pulse-train builder (42_pulse_train_builder.md): what emit does with a pulse symbol that fits
and with one that does not, the program BUILD writes, its counts, and DecodeSlots as its inverse. -/

namespace Sys2Proof.Machine

/-! ### DecodeSlots inverts BUILD (R75, R99) -/

/-- The six BYTEs of a frame are the bit symbols of its 48 bits. -/
theorem flatMap_byteSlots (f : RawFrame) : f.bytes.flatMap byteSlots = (f.bytes.flatMap byteBits).flatMap bitSlots :=
  List.flatMap_assoc.symm

theorem length_flatMap_byteBits (f : RawFrame) : (f.bytes.flatMap byteBits).length = 48 := by
  simp [RawFrame.bytes]

theorem pulseWidths_stopmarkSlots : pulseWidths (runsOf stopmarkSlots) = some [(1, 8)] := by decide

theorem head?_bitSlots (d : Bool) : (bitSlots d).head? = some true := by cases d <;> rfl

/-- Bit symbols before STOPMARK begin with a mark, so a space run before them ends there. -/
theorem head?_flatMap_bitSlots_stopmark (ds : List Bool) : (ds.flatMap bitSlots ++ stopmarkSlots).head? = some true := by
  cases ds with
  | nil => rfl
  | cons d ds => rw [List.flatMap_cons, List.append_assoc, List.head?_append, head?_bitSlots, Option.some_or]

/-- The pulse symbols of a built program: START, a bit symbol for each data bit, STOPMARK (R73). -/
theorem pulseWidths_frameSlots (f : RawFrame) : pulseWidths (runsOf (frameSlots f)) =
    some ((8, 8) :: ((f.bytes.flatMap byteBits).map bitWidths ++ [(1, 8)])) := by
  have hbits := pulseWidths_bits (f.bytes.flatMap byteBits) stopmarkSlots (by decide)
  rw [pulseWidths_stopmarkSlots] at hbits
  have hmark : ((f.bytes.flatMap byteBits).flatMap bitSlots ++ stopmarkSlots).head? ≠ some false := by
    rw [head?_flatMap_bitSlots_stopmark]; decide
  rw [frameSlots, flatMap_byteSlots, List.append_assoc, startSlots, pulseWidths_symbol 7 7 _ hmark, hbits]
  rfl

/-- A frame's 48 bits, cut into eights, are its six bytes again. -/
theorem frameOfBits_flatMap_byteBits (f : RawFrame) : frameOfBits (f.bytes.flatMap byteBits) = f := by
  have hcut : frameOfBits (f.bytes.flatMap byteBits) = ⟨byteOfBits (byteBits f.f0), byteOfBits (byteBits f.f1),
      byteOfBits (byteBits f.f2), byteOfBits (byteBits f.f3), byteOfBits (byteBits f.f4), byteOfBits (byteBits f.f5)⟩ := rfl
  simp only [hcut, byteOfBits_byteBits]

/-- DecodeSlots reads the layout of R73 back: between START and STOPMARK it finds the frame's own 48 data bits. -/
theorem decodeProgram_frameSlots (f : RawFrame) : decodeProgram (frameSlots f) = some f := by
  have hlength := length_flatMap_byteBits f
  have hstop : ((f.bytes.flatMap byteBits).map bitWidths ++ [(1, 8)]).length = 49 ∧
      ((f.bytes.flatMap byteBits).map bitWidths ++ [(1, 8)]).getLast? = some (1, 8) := by simp [hlength]
  simp only [decodeProgram, pulseWidths_frameSlots]
  rw [if_pos hstop, List.dropLast_concat, dataBits_map_bitWidths, Option.map_some, frameOfBits_flatMap_byteBits]

/-- Settles O50: the program BUILD returns has the frame's slots, whatever the reused buffer held, and they read back. -/
theorem decodeSlotsInvertsBuild : Obligations.DecodeSlotsInvertsBuild := by
  intro f s t b hexec hresult
  rw [decodeSlots, programSlots_of_exec_build hexec hresult, decodeProgram_frameSlots]

/-! ### A pulse symbol that stands alone (R95, R97) -/

/-- A symbol that is emitted whole replaces the buffer and nothing else. -/
theorem emitSymbol_of_ok {vs : List Bool} {s : State} (h : (emitAll Config.slotCapacity vs s.buffer).2 = .ok) :
    emitSymbol vs s = { s with buffer := (emitAll Config.slotCapacity vs s.buffer).1 } := by
  obtain ⟨-, heq⟩ | ⟨hne, -⟩ := emitSymbol_cases vs s
  · exact heq
  · exact absurd h hne

/-- A symbol that passes the capacity replaces the buffer and returns `CapacityExceeded`. -/
theorem emitSymbol_of_capacityExceeded {vs : List Bool} {s : State}
    (h : (emitAll Config.slotCapacity vs s.buffer).2 = .capacityExceeded) :
    emitSymbol vs s =
      { s with buffer := (emitAll Config.slotCapacity vs s.buffer).1, result := .status .capacityExceeded } := by
  obtain ⟨hok, -⟩ | ⟨-, heq⟩ := emitSymbol_cases vs s
  · rw [h] at hok; cases hok
  · rw [heq, h]; rfl

/-- Settles O40: the symbol's slots fit, so emit writes the whole run. -/
theorem pulseSymbolIsEmittedIntoTheBuffer : Obligations.PulseSymbolIsEmittedIntoTheBuffer := by
  intro i vs s hi hfits
  obtain ⟨hok, hcount, hbits⟩ := emitAll_fits Config.slotCapacity (by decide) vs s.buffer hfits
  exact ⟨_, by rw [exec_of_encode_symbol hi, emitSymbol_of_ok hok], hcount, hbits⟩

/-- Settles O41: the symbol passes the capacity, so emit fills the buffer and reports. -/
theorem pulseSymbolThatDoesNotFitIsReported : Obligations.PulseSymbolThatDoesNotFitIsReported := by
  intro i vs s hi hcap hpasses
  obtain ⟨hstatus, hcount, hbits⟩ := emitAll_passes Config.slotCapacity (by decide) vs s.buffer hcap hpasses
  exact ⟨_, by rw [exec_of_encode_symbol hi, emitSymbol_of_capacityExceeded hstatus], hcount, hbits⟩

/-! ### The program BUILD writes (R95, R98) -/

/-- The layout of R73 with every slot written out, bytes from bit 7. -/
theorem frameSlots_eq_written_out (f : RawFrame) : frameSlots f =
    List.replicate 8 true ++ List.replicate 8 false ++
      ([f.f0, f.f1, f.f2, f.f3, f.f4, f.f5].flatMap fun byte =>
        [7, 6, 5, 4, 3, 2, 1, 0].flatMap fun i => if byte.getLsbD i then [true, false, false, false] else [true, false]) ++
      ([true] ++ List.replicate 8 false) := by
  simp only [← tokenSlots_byte]
  rfl

/-- Settles O46: BUILD's check is unreachable, and the run it emits from slot 0 is the frame's layout. -/
theorem buildWritesTheFrameProgram : Obligations.BuildWritesTheFrameProgram := by
  intro f s
  obtain ⟨-, hcount, hbits⟩ := buildFrame_ok Config.slotCapacity (by decide) (by decide) f s.buffer
  exact ⟨_, frameSlots f, execBuild_eq f s, frameSlots_eq_written_out f, hcount, hbits⟩

@[simp] theorem length_programSlots (image : SlotImage) (n : Nat) : (programSlots image n).length = n := by
  simp [programSlots]

/-- The count a returned program records is the length of its frame's layout. -/
theorem count_of_exec_build {f : RawFrame} {s t : State} {b : SlotBuffer} (h : exec (.build f) s = .next t)
    (hb : t.result = .program b) : b.count = (frameSlots f).length := by
  rw [← programSlots_of_exec_build h hb, length_programSlots]

/-- Settles O49: count and valid slots are those of the frame's layout in both runs. -/
theorem buildDependsOnTheFrameAlone : Obligations.BuildDependsOnTheFrameAlone := by
  intro f s t s' t' b c hs ht hb hc
  exact ⟨by rw [count_of_exec_build hs hb, count_of_exec_build ht hc],
    by rw [programSlots_of_exec_build hs hb, programSlots_of_exec_build ht hc]⟩

/-! ### The counts of a built program (R96) -/

/-- Each bit symbol has exactly one mark (R69, R70). -/
theorem count_flatMap_bitSlots (ds : List Bool) : (ds.flatMap bitSlots).count true = ds.length := by
  induction ds with
  | nil => rfl
  | cons d ds ih =>
    have hd : (bitSlots d).count true = 1 := by cases d <;> rfl
    rw [List.flatMap_cons, List.count_append, hd, ih, List.length_cons, Nat.add_comm]

/-- A built program has 8 marks in START, one for each data bit, and one in STOPMARK. -/
theorem count_frameSlots (f : RawFrame) : (frameSlots f).count true = 57 := by
  have hstart : startSlots.count true = 8 := by decide
  have hstop : stopmarkSlots.count true = 1 := by decide
  rw [frameSlots, List.count_append, List.count_append, flatMap_byteSlots, count_flatMap_bitSlots, length_flatMap_byteBits,
    hstart, hstop]

/-- The one bits of an image below `n` are the marks of its program. -/
theorem countP_range_eq_count_programSlots (image : SlotImage) (n : Nat) :
    (List.range n).countP image.getLsbD = (programSlots image n).count true := by
  simp [programSlots, List.count_eq_countP, List.countP_map, Function.comp_def]

/-- Settles O47: the length and the marks of the frame's layout, at most 48 of the bits being ones. -/
theorem builtProgramCounts : Obligations.BuiltProgramCounts := by
  intro f s t b hexec hresult
  have hcount : b.count = 121 + 2 * framePopcount f := by
    rw [count_of_exec_build hexec hresult, length_frameSlots, frameOnes_eq]
  have hones : framePopcount f ≤ 48 := frameOnes_eq f ▸ frameOnes_le f
  refine ⟨hcount, by omega, by omega, ?_⟩
  rw [countP_range_eq_count_programSlots, programSlots_of_exec_build hexec hresult, count_frameSlots]

/-! ### BUILD at any capacity (R97) -/

/-- No emitted run writes a slot at or above the capacity, whether it fits or not. -/
theorem getLsbD_emitAll_of_capacity_le {capacity k : Nat} (hc : capacity ≤ 256) (hk : capacity ≤ k) (vs : List Bool)
    (b : SlotBuffer) : (emitAll capacity vs b).1.bits.getLsbD k = b.bits.getLsbD k := by
  induction vs generalizing b with
  | nil => rfl
  | cons v vs ih =>
    unfold emitAll
    split
    · rfl
    · rw [ih, getLsbD_setSlot _ _ _ (by omega), if_neg (by omega)]

/-- Settles O48: 217 slots hold every program, a shorter buffer than the program overflows, and neither run passes the
capacity. -/
theorem buildNeverExceedsAConformantCapacity : Obligations.BuildNeverExceedsAConformantCapacity := by
  intro capacity f b hc
  refine ⟨fun h => (buildFrame_ok capacity hc h f b).1, fun h => ?_,
    fun k hk => getLsbD_emitAll_of_capacity_le hc hk (frameSlots f) { b with count := 0 }⟩
  have hlength : (frameSlots f).length = 121 + 2 * framePopcount f := by rw [length_frameSlots, frameOnes_eq]
  refine emitAll_overflows capacity (frameSlots f) { b with count := 0 } (by simp only; omega) fun hnil => ?_
  rw [hnil, List.length_nil] at hlength
  omega

end Sys2Proof.Machine
end

section
/-! PROOFS. The statements on the engine's host operations (43_engine_host_ops.md): ARM accepted, busy and rejected, IS_IDLE,
and STOP where it exists. -/

namespace Sys2Proof.Machine

/-! ### ARM on an idle engine with operands it accepts (R105) -/

/-- The nine bits of SLOT_COUNT hold every count up to the capacity (R22, R64). -/
theorem toNat_slotCount_loadProgram {n : Nat} (h : n ≤ Config.slotCapacity) (image : SlotImage) (r : Nat) (s : State) :
    (loadProgram image n r s).slotCount.toNat = n := by
  simp only [Config.slotCapacity] at h
  rw [loadProgram_slotCount, BitVec.toNat_ofNat, Nat.mod_eq_of_lt (by omega)]

/-- The eight bits of REPEAT_COUNT hold every repeat up to the largest one ARM accepts (R23, R107 (d)). -/
theorem toNat_repeatCount_loadProgram {r : Nat} (h : r ≤ Config.maxRepeat) (image : SlotImage) (n : Nat) (s : State) :
    (loadProgram image n r s).repeatCount.toNat = r := by
  simp only [Config.maxRepeat] at h
  rw [loadProgram_repeatCount, BitVec.toNat_ofNat, Nat.mod_eq_of_lt (by omega)]

/-- A loaded program is that of the image, slot by slot (R105). -/
theorem slotRead_loadProgram {k : Nat} (hk : k < 256) (image : SlotImage) (n r : Nat) (s : State) :
    slotRead (loadProgram image n r s) k = .ok (image.getLsbD k) :=
  ((slotRead_congr rfl k).trans (storedImageReadsBack image s k)).trans (if_pos hk)

/-- Settles O27: the accepted ARM is the loaded program with Ok returned, and its repeat, which is not 0, ends Idle. -/
theorem acceptedArmLoadsAndStarts : Obligations.AcceptedArmLoadsAndStarts := by
  intro s image n r hidle hnr
  obtain ⟨hn, hn', hr, hr'⟩ := hnr
  have harm := armEngine_accepted hidle image hn hn' hr hr'
  have hcount := toNat_slotCount_loadProgram hn' image r s
  have hrepeat := toNat_repeatCount_loadProgram hr' image n s
  have hplay : (loadProgram image n r s).repeatCount ≠ 0 := fun h0 =>
    Nat.ne_of_lt hr ((congrArg BitVec.toNat h0).symm.trans hrepeat)
  exact ⟨_, congrArg Host.Outcome.next harm, rfl, fun k hk => slotRead_loadProgram hk image n r s, wf_storedCells image,
    hcount, rfl, rfl, hrepeat, rfl, (idle_eq_false_iff _).mpr hplay, rfl, rfl, rfl, rfl⟩

/-! ### ARM refused: busy, and the operand checks in order (R106, R107) -/

/-- Settles O28: the busy check comes before the operands are looked at. -/
theorem armWhileBusyChangesNothing : Obligations.ArmWhileBusyChangesNothing :=
  fun _ image n r hbusy => congrArg Host.Outcome.next (armEngine_busy hbusy image n r)

/-- ARM's checks on an idle engine (R107). -/
theorem armCheck_of_idle {s : State} (h : s.repeatCount = 0) (n r : Nat) : armCheck s n r =
    if 256 < n then some .capacityExceeded
    else if n = 0 then some .invalidArgument
    else if r = 0 ∨ 255 < r then some .invalidArgument
    else none := by
  rw [armCheck, (idle_eq_true_iff s).mpr h]; rfl

/-- An ARM whose check fails returns that check's status and changes nothing else (R53, R107). -/
theorem exec_arm_of_check {s : State} {n r : Nat} {st : Status} (h : armCheck s n r = some st) (image : SlotImage) :
    exec (.arm image n r) s = .next (returnStatus st s) := by
  rw [exec_arm, execArm, armEngine, h]

/-- Settles O29: each clause makes one check the first that fails. -/
theorem armRejectsBadOperandsInOrder : Obligations.ArmRejectsBadOperandsInOrder := by
  intro s image n r hidle
  have hcheck := armCheck_of_idle hidle n r
  refine ⟨fun hbig => exec_arm_of_check ?_ image, fun hempty => exec_arm_of_check ?_ image,
    fun hn hn' hbad => exec_arm_of_check ?_ image⟩
  · rw [hcheck, if_pos hbig]
  · rw [hcheck, if_neg (by omega), if_pos hempty]
  · rw [hcheck, if_neg (by omega), if_neg (by omega), if_pos hbad]

/-! ### IS_IDLE and STOP (R108, R109) -/

/-- Settles O30: the answer is the flag IDLE, which the block derives from REPEAT_COUNT. -/
theorem isIdleAnswersTheFlag : Obligations.IsIdleAnswersTheFlag := by
  intro s
  have hflag : idle s = decide (s.repeatCount = 0) := by
    rw [Bool.eq_iff_iff, idle_eq_true_iff, decide_eq_true_iff]
  rw [exec_isIdle, execIsIdle, hflag]; rfl

theorem execStop_with_strap {s : State} (h : s.hasStop = true) : execStop s = .next (stopEngine s) := by
  rw [execStop, if_pos h]

/-- In Idle the timer is already stopped and the line already inactive (R33 (a), (b)), so STOP writes what is there. -/
theorem EngineInv.sameBlock_stopEngine {s : State} (h : EngineInv s) (hidle : s.repeatCount = 0) :
    SameBlock s (stopEngine s) where
  slots := rfl
  slotCount := rfl
  repeatCount := hidle.symm
  curSlot := rfl
  curSub := rfl
  timerRun := (Bool.eq_false_iff.mpr fun hrun => h.timer.mp hrun hidle).symm
  out := (h.idleOut hidle).symm

/-- Settles O31: with the strap STOP is `stopEngine`, which in Idle has nothing to undo. -/
theorem stopCutsTheTransmission : Obligations.StopCutsTheTransmission := by
  refine ⟨fun s hstop => execStop_with_strap hstop, fun s t hinv hstop hidle hexec => ?_⟩
  obtain rfl : stopEngine s = t := Host.Outcome.next.inj ((execStop_with_strap hstop).symm.trans hexec)
  exact hinv.sameBlock_stopEngine hidle

end Sys2Proof.Machine
end

section
/-! PROOFS. The statements on playback (44_engine_playback.md): the meanings of MARK, SPACE and TICK, what one TICK does at
each boundary, how Playing is entered and left, and the runs of a transmission left to the timer: its exact length, where the
cursors stand after each tick, the waveform, and its slot advances and active ticks counted. -/

namespace Sys2Proof.Machine

/-! ### MARK, SPACE and the fetched symbol -/

/-- Settles O13: MARK's drive is one write of the line, by the parity of CUR_SUB. -/
theorem markDrivesTheCarrier : Obligations.MarkDrivesTheCarrier := by
  intro s
  simp only [exec_mark, execMark, driveMark, evenSubTick, beq_iff_eq, setOut]

/-- Settles O14: SPACE's drive is one write of the line. -/
theorem spaceHoldsTheLineInactive : Obligations.SpaceHoldsTheLineInactive := fun _ => rfl

/-- Settles O15: in Idle TICK fetches nothing. -/
theorem tickInIdleChangesNothing : Obligations.TickInIdleChangesNothing := fun _ hidle => execTick_idle hidle

/-- The symbol a slot bit decodes to has that bit's drive for its meaning (R61, R116, log 18). -/
theorem exec_of_decode_slot {bit : Bool} {i : Instr} (h : decode (.slot bit) = .ok i) (s : State) :
    exec i s = .next (driveSymbol bit s) := by
  cases bit <;> cases h <;> rfl

/-- Settles O9: the meaning of the decoded symbol is the drive that TICK makes before it advances. -/
theorem tickRunsTheSlotSymbolAtTheCursor : Obligations.TickRunsTheSlotSymbolAtTheCursor := by
  intro s u bit i hplay hread hdecode hexec
  obtain rfl : driveSymbol bit s = u := Host.Outcome.next.inj ((exec_of_decode_slot hdecode s).symm.trans hexec)
  exact execTick_playing hplay hread

/-! ### The advance, one equation a boundary (R119 to R122) -/

theorem advance_eq_nextSubTick {s : State} (hsub : s.curSub.toNat ≠ 41) : advance s = nextSubTick s := by
  rw [advance, if_neg (mt (endsSlot_iff s).mp hsub)]

theorem advance_eq_nextSlot {s : State} (hsub : s.curSub.toNat = 41) (hslot : s.curSlot + 1 ≠ s.slotCount) :
    advance s = nextSlot s := by
  rw [advance, if_pos ((endsSlot_iff s).mpr hsub), if_neg (mt (endsPass_iff s).mp hslot)]

theorem advance_eq_replayPass {s : State} (hsub : s.curSub.toNat = 41) (hslot : s.curSlot + 1 = s.slotCount)
    (hrepeat : s.repeatCount ≠ 1) : advance s = replayPass s := by
  rw [advance, if_pos ((endsSlot_iff s).mpr hsub), if_pos ((endsPass_iff s).mpr hslot),
    if_neg (mt (endsTransmission_iff s).mp hrepeat)]

theorem advance_eq_completeTransmission {s : State} (hsub : s.curSub.toNat = 41) (hslot : s.curSlot + 1 = s.slotCount)
    (hrepeat : s.repeatCount = 1) : advance s = completeTransmission s := by
  rw [advance, if_pos ((endsSlot_iff s).mpr hsub), if_pos ((endsPass_iff s).mpr hslot),
    if_pos ((endsTransmission_iff s).mpr hrepeat)]

/-! ### One TICK in Playing -/

/-- Adding one to a counter, on its number. -/
theorem ofNat_toNat_add_one {w : Nat} (x : BitVec w) : BitVec.ofNat w (x.toNat + 1) = x + 1 := by
  simp [BitVec.ofNat_add]

/-- Where the slot's number is the last of the pass, CUR_SLOT reaches SLOT_COUNT. -/
theorem add_one_eq_of_toNat {w : Nat} {x y : BitVec w} (h : x.toNat + 1 = y.toNat) : x + 1 = y := by
  rw [← ofNat_toNat_add_one, h, BitVec.ofNat_toNat, BitVec.setWidth_eq]

/-- Sub-tick 41 is odd, so the 42nd tick leaves the line inactive whatever the symbol (R117, D6). -/
theorem driveSymbol_of_last_subTick {s : State} (hsub : s.curSub.toNat = 41) (bit : Bool) :
    driveSymbol bit s = setOut .inactive s := by
  simp [driveSymbol_eq, evenSubTick, hsub]

/-- The 42nd TICK of a slot forces the line inactive, then makes the boundary (R116, R119, D5). -/
theorem execTick_of_last_subTick {s : State} {bit : Bool} (hplay : s.repeatCount ≠ 0)
    (hread : slotRead s s.curSlot.toNat = .ok bit) (hsub : s.curSub.toNat = 41) :
    execTick s = .next (advance (setOut .inactive s)) := by
  rw [execTick_playing hplay hread, driveSymbol_of_last_subTick hsub]

/-- Settles O16: the advance is a sub-tick, after a drive by the bit and the parity. -/
theorem tickCountsSubTicks : Obligations.TickCountsSubTicks := by
  intro s bit hplay hread hsub
  have hlevel : (bit && evenSubTick s) = true ↔ bit = true ∧ s.curSub.toNat % 2 = 0 := by
    rw [Bool.and_eq_true, evenSubTick, beq_iff_eq]
  have hadvance (level : Level) : advance (setOut level s) = nextSubTick (setOut level s) :=
    advance_eq_nextSubTick (Nat.ne_of_lt hsub)
  rw [exec_tick, execTick_playing hplay hread, driveSymbol_eq, hadvance, ofNat_toNat_add_one]
  simp only [hlevel]
  rfl

/-- Settles O17: the advance is to the next slot. -/
theorem fortySecondTickMovesToTheNextSlot : Obligations.FortySecondTickMovesToTheNextSlot := by
  intro s bit hplay hread hsub hnext
  have hslot : s.curSlot + 1 ≠ s.slotCount := by bv_omega
  rw [exec_tick, execTick_of_last_subTick hplay hread hsub, advance_eq_nextSlot (s := setOut .inactive s) hsub hslot,
    ofNat_toNat_add_one]
  rfl

/-- Settles O18: the advance is a replay. -/
theorem endOfPassReplaysTheProgram : Obligations.EndOfPassReplaysTheProgram := by
  intro s bit hmore hread hsub hlast
  have hplay : s.repeatCount ≠ 0 := by bv_omega
  have hrepeat : s.repeatCount ≠ 1 := by bv_omega
  have hpass : BitVec.ofNat 8 (s.repeatCount.toNat - 1) = s.repeatCount - 1 := by bv_omega
  rw [exec_tick, execTick_of_last_subTick hplay hread hsub,
    advance_eq_replayPass (s := setOut .inactive s) hsub (add_one_eq_of_toNat hlast) hrepeat, hpass]
  rfl

/-- Settles O19: the advance is the completion, which leaves REPEAT_COUNT at 1 - 1 and CUR_SLOT at SLOT_COUNT. -/
theorem lastTickCompletesTheTransmission : Obligations.LastTickCompletesTheTransmission := by
  intro s bit hone hread hsub hlast
  have hrepeat : s.repeatCount = 1 := BitVec.eq_of_toNat_eq hone
  have hplay : s.repeatCount ≠ 0 := by rw [hrepeat]; decide
  have hslot := add_one_eq_of_toNat hlast
  rw [exec_tick, execTick_of_last_subTick hplay hread hsub,
    advance_eq_completeTransmission (s := setOut .inactive s) hsub hslot hrepeat]
  simp only [completeTransmission, setOut, timerStop, hslot, hrepeat]
  rfl

/-- TICK writes nothing of the host (R54). -/
theorem SameHost.of_execTick {s t : State} (h : execTick s = .next t) : SameHost s t := by
  obtain ⟨hschedule, hstrap⟩ := execTick_schedule_hasStop h
  obtain ⟨-, rfl⟩ | ⟨-, bit, -, rfl⟩ := execTick_cases h
  · exact ⟨rfl, rfl, rfl, rfl⟩
  · refine ⟨?_, ?_, hschedule, hstrap⟩ <;> rw [driveSymbol_eq] <;>
      obtain ⟨-, ha⟩ | ⟨-, -, ha⟩ | ⟨-, -, -, ha⟩ | ⟨-, -, -, ha⟩ := advance_cases (setOut _ s) <;> rw [ha] <;> rfl

/-- Settles O20: TICK stores nothing in the slot space, nor in SLOT_COUNT, nor in the host's state. -/
theorem tickLeavesProgramAndHostAlone : Obligations.TickLeavesProgramAndHostAlone := by
  intro s t h
  obtain ⟨hslots, hcount⟩ := execTick_slots_slotCount h
  exact ⟨slotRead_congr hslots, hcount, .of_execTick h⟩

/-! ### How Playing is entered and left (R115) -/

/-- What an instruction can do to the flag IDLE: nothing (MARK and SPACE drive the line alone), what TICK does, or one of
the effects of a HOST instruction. -/
theorem exec_cases {i : Instr} {s t : State} (h : exec i s = .next t) :
    t.repeatCount = s.repeatCount ∨ (i = .tick ∧ execTick s = .next t) ∨ HostEffect i s t := by
  cases i with
  | mark => cases h; exact .inl rfl
  | space => cases h; exact .inl rfl
  | tick => exact .inr (.inl ⟨rfl, h⟩)
  | _ => exact .inr (.inr (hostEffect_of_exec rfl h))

/-- A TICK that ends Playing is the 42nd of the last slot of the last pass, and leaves the cursors of a completed
transmission (R122, D5, D13). -/
theorem execTick_completes {s t : State} (h : execTick s = .next t) (hplay : s.repeatCount ≠ 0) (hidle : t.repeatCount = 0) :
    (s.curSub = 41 ∧ s.curSlot + 1 = s.slotCount ∧ s.repeatCount = 1) ∧ t.curSub = 0 ∧ t.curSlot = t.slotCount := by
  obtain ⟨h0, -⟩ | ⟨-, bit, -, rfl⟩ := execTick_cases h
  · exact absurd h0 hplay
  rw [driveSymbol_eq] at hidle ⊢
  obtain ⟨-, ha⟩ | ⟨-, -, ha⟩ | ⟨-, -, hmore, ha⟩ | ⟨hsub, hslot, hrepeat, ha⟩ := advance_cases (setOut _ s) <;>
    rw [ha] at hidle ⊢
  · exact absurd hidle hplay
  · exact absurd hidle hplay
  · exact absurd (BitVec.sub_eq_iff_eq_add.mp hidle) hmore
  · exact ⟨⟨BitVec.eq_of_toNat_eq hsub, hslot, hrepeat⟩, rfl, hslot⟩

/-- Settles O35: of all an instruction can do to IDLE, only the accepted ARM clears it, and only the completing TICK and STOP
set it. -/
theorem playingIsEnteredByArmAndLeftByTickOrStop : Obligations.PlayingIsEnteredByArmAndLeftByTickOrStop := by
  refine ⟨fun i s t h hidle hplay => ?_, fun i s t h hplay hidle => ?_⟩
  · obtain hkeep | ⟨-, htick⟩ | heffect := exec_cases h
    · exact absurd (hkeep.trans hidle) hplay
    · cases (execTick_idle hidle).symm.trans htick
      exact absurd hidle hplay
    · cases heffect with
      | nothing same => exact absurd (same.repeatCount.trans hidle) hplay
      | loads _ _ _ _ _ _ status source => exact ⟨status, source⟩
      | stops _ _ state => exact absurd (state ▸ rfl) hplay
  · obtain hkeep | ⟨htick, hexec⟩ | heffect := exec_cases h
    · exact absurd (hkeep.symm.trans hidle) hplay
    · obtain ⟨⟨hsub, hslot, hrepeat⟩, -⟩ := execTick_completes hexec hplay hidle
      exact .inl ⟨htick, hrepeat, hsub, hslot⟩
    · cases heffect with
      | nothing same => exact absurd (same.repeatCount.symm.trans hidle) hplay
      | loads _ _ _ hidle' _ _ _ _ => exact absurd hidle' hplay
      | stops isStop hasStop _ => exact .inr ⟨isStop, hasStop⟩

/-! ### A transmission left to the timer -/

/-- A Playing engine has a tick to go. -/
theorem EngineInv.ticksLeft_pos {s : State} (h : EngineInv s) (hplay : s.repeatCount ≠ 0) : 0 < ticksLeft s := by
  have hslot := h.slot hplay
  have hsub := h.sub hplay
  simp only [Config.subslotsPerSlot] at hsub
  rw [ticksLeft_eq rfl rfl rfl rfl]
  omega

/-- An Idle engine under the invariant is at the end of a run (R33 (a), (b)). -/
theorem EngineInv.endOfRun {s : State} (h : EngineInv s) (hidle : s.repeatCount = 0) : endOfRun s :=
  ⟨hidle, Bool.eq_false_iff.mpr fun hrun => h.timer.mp hrun hidle, h.idleOut hidle⟩

/-- At the start of a slot, and in Idle, the line is inactive (R33 (b), (d)). -/
theorem EngineInv.out_of_curSub_zero {s : State} (h : EngineInv s) (hsub : s.curSub = 0) : s.out = .inactive := by
  by_cases hidle : s.repeatCount = 0
  · exact h.idleOut hidle
  · cases hout : s.out with
    | inactive => rfl
    | active =>
      have hodd := ((h.phase hidle).mp hout).1
      rw [hsub] at hodd
      cases hodd

/-- Where `j` ticks of a transmission left to the timer lead: what a TICK does not write is as at the start, `j` of the ticks
are used up, and if the engine is Idle the cursors are those of a completed transmission (D13). -/
structure PlayedFor (j : Nat) (s u : State) : Prop where
  inv : EngineInv u
  slots : u.slots = s.slots
  slotCount : u.slotCount = s.slotCount
  host : SameHost s u
  left : ticksLeft u + j = ticksLeft s
  completed : u.repeatCount = 0 → u.curSub = 0 ∧ u.curSlot = u.slotCount

/-- Idle is reached with the last tick left, and not before. -/
theorem PlayedFor.idle_iff {j : Nat} {s u : State} (h : PlayedFor j s u) : u.repeatCount = 0 ↔ j = ticksLeft s := by
  have hleft := h.left
  constructor
  · intro hidle
    obtain ⟨hsub, hslot⟩ := h.completed hidle
    have hnone : ticksLeft u = 0 := by simp [ticksLeft, hidle, hsub, hslot]
    omega
  · intro hj
    by_contra hplay
    have := h.inv.ticksLeft_pos hplay
    omega

/-- One more tick. -/
theorem PlayedFor.tick {j : Nat} {s u v : State} (h : PlayedFor j s u) (hplay : u.repeatCount ≠ 0)
    (hexec : execTick u = .next v) : PlayedFor (j + 1) s v := by
  obtain ⟨hslots, hcount⟩ := execTick_slots_slotCount hexec
  obtain ⟨hbuffer, hresult, hschedule, hstrap⟩ := SameHost.of_execTick hexec
  have hone := everyTickAdvancesTheTransmissionByOne u v h.inv hplay hexec
  have hleft := h.left
  exact {
    inv := h.inv.after_tick hexec
    slots := hslots.trans h.slots
    slotCount := hcount.trans h.slotCount
    host := ⟨hbuffer.trans h.host.buffer, hresult.trans h.host.result, hschedule.trans h.host.schedule,
      hstrap.trans h.host.hasStop⟩
    left := by omega
    completed := fun hidle => (execTick_completes hexec hplay hidle).2 }

/-- A transmission left to the timer plays on for as many ticks as it has left. -/
theorem exists_run_playedFor {s : State} (hinv : EngineInv s) (hplay : s.repeatCount ≠ 0) (hs : s.schedule = []) {j : Nat}
    (hj : j ≤ ticksLeft s) : ∃ u, run j s = .next u ∧ PlayedFor j s u := by
  induction j with
  | zero => exact ⟨s, rfl, hinv, rfl, rfl, ⟨rfl, rfl, rfl, rfl⟩, rfl, fun hidle => absurd hidle hplay⟩
  | succ j ih =>
    obtain ⟨u, hrun, h⟩ := ih (by omega)
    have hplay' : u.repeatCount ≠ 0 := mt h.idle_iff.mp (by omega)
    obtain ⟨bit, hread⟩ := h.inv.exists_slotRead hplay'
    have hexec := execTick_playing hplay' hread
    have hstep := (step_of_empty_running (h.host.schedule.trans hs) (h.inv.timer.mpr hplay')).trans hexec
    exact ⟨_, (run_add j 1 hrun).trans (run_succ_of_step hstep 0), h.tick hplay' hexec⟩

/-- Settles O23: the run plays for all the ticks left, and is Idle at the last of them alone. -/
theorem transmissionCompletesInBoundedTicks : Obligations.TransmissionCompletesInBoundedTicks := by
  intro s hinv hplay hs
  refine ⟨?_, fun j hj => ?_⟩
  · obtain ⟨t, hrun, h⟩ := exists_run_playedFor hinv hplay hs le_rfl
    have hidle := h.idle_iff.mpr rfl
    obtain ⟨hsub, hslot⟩ := h.completed hidle
    exact ⟨t, hrun, h.inv.endOfRun hidle, hslot, hsub, h.host⟩
  · obtain ⟨u, hrun, h⟩ := exists_run_playedFor hinv hplay hs hj.le
    exact ⟨u, hrun, mt h.idle_iff.mp hj.ne⟩

/-! ### Where a transmission stands, by the ticks it has behind it -/

/-- The engine plays, with no host turn to come, and has `d` ticks behind it of `r` passes over `n` slots (R30, R170). -/
structure Underway (n r d : Nat) (s : State) : Prop where
  inv : EngineInv s
  playing : s.repeatCount ≠ 0
  schedule : s.schedule = []
  count : s.slotCount.toNat = n
  left : ticksLeft s + d = 42 * (n * r)

section
variable {n r d j : Nat} {s : State}

/-- The ticks behind are `p` full passes, the slots before CUR_SLOT and the sub-ticks before CUR_SUB, where `p` and
REPEAT_COUNT make up `r`. -/
theorem Underway.exists_passes (h : Underway n r d s) :
    ∃ p, s.repeatCount.toNat + p = r ∧ d = 42 * (n * p + s.curSlot.toNat) + s.curSub.toNat := by
  obtain ⟨hinv, hplay, -, hcount, hleft⟩ := h
  have hslot := hcount ▸ hinv.slot hplay
  have hsub := hinv.sub hplay
  simp only [Config.subslotsPerSlot] at hsub
  obtain ⟨q, hq⟩ : ∃ q, s.repeatCount.toNat = q + 1 := ⟨s.repeatCount.toNat - 1, by bv_omega⟩
  rw [ticksLeft_eq hcount rfl rfl (Nat.sub_eq_of_eq_add hq), Nat.mul_assoc] at hleft
  have hqr : q < r := by
    by_contra hle
    have := Nat.mul_le_mul_left n (Nat.le_of_not_lt hle)
    omega
  obtain ⟨p, rfl⟩ := Nat.exists_eq_add_of_le (Nat.succ_le_of_lt hqr)
  refine ⟨p, by omega, ?_⟩
  rw [Nat.mul_add, Nat.mul_succ] at hleft
  omega

/-- Sub-tick, slot and passes to go are the digits of the ticks behind (R119 to R121). -/
theorem Underway.position (h : Underway n r d s) :
    s.curSub.toNat = d % 42 ∧ s.curSlot.toNat = d / 42 % n ∧ s.repeatCount.toNat + d / (42 * n) = r := by
  obtain ⟨p, hp, hd⟩ := h.exists_passes
  have hslot : s.curSlot.toNat < n := h.count ▸ h.inv.slot h.playing
  have hsub := h.inv.sub h.playing
  simp only [Config.subslotsPerSlot] at hsub
  have hwindow : d / 42 = n * p + s.curSlot.toNat := by omega
  refine ⟨by omega, ?_, ?_⟩
  · rw [hwindow, Nat.mul_add_mod, Nat.mod_eq_of_lt hslot]
  · rw [← Nat.div_div_eq_div_mul, hwindow, Nat.mul_add_div (by omega), Nat.div_eq_of_lt hslot, Nat.add_zero, hp]

/-- Before its last tick a transmission stays under way. -/
theorem Underway.run_before_end (h : Underway n r d s) (hj : d + j < 42 * (n * r)) :
    ∃ u, run j s = .next u ∧ Underway n r (d + j) u ∧ u.slots = s.slots := by
  have hleft := h.left
  obtain ⟨u, hrun, hu⟩ := exists_run_playedFor h.inv h.playing h.schedule (j := j) (by omega)
  have hleft' := hu.left
  exact ⟨u, hrun, ⟨hu.inv, mt hu.idle_iff.mp (by omega), hu.host.schedule.trans h.schedule,
    (congrArg BitVec.toNat hu.slotCount).trans h.count, by omega⟩, hu.slots⟩

/-- With its last tick a transmission is complete (R122, D13). -/
theorem Underway.run_to_end (h : Underway n r d s) (hj : d + j = 42 * (n * r)) :
    ∃ u, run j s = .next u ∧ endOfRun u ∧ u.curSlot.toNat = n ∧ u.curSub = 0 := by
  have hleft := h.left
  obtain rfl : j = ticksLeft s := by omega
  obtain ⟨⟨u, hrun, hend, hslot, hsub, -⟩, -⟩ :=
    transmissionCompletesInBoundedTicks s h.inv h.playing h.schedule
  obtain ⟨v, hrun', hv⟩ := exists_run_playedFor h.inv h.playing h.schedule le_rfl
  cases hrun.symm.trans hrun'
  exact ⟨u, hrun, hend, by rw [hslot, hv.slotCount, h.count], hsub⟩

/-! ### The waveform (R125) -/

theorem levelAfter_of_run {k : Nat} {u : State} (h : run k s = .next u) : levelAfter k s = u.out := by
  simp only [levelAfter, h]

/-- The level after the tick with `d + j` ticks before it is active exactly where that tick is even and in a mark slot; the
tick that makes a boundary is odd (R117, R118, D6). -/
theorem Underway.levelAfter_succ (h : Underway n r d s) (hj : d + j < 42 * (n * r)) :
    levelAfter (j + 1) s = .active ↔ slotLookup s.slots ((d + j) / 42 % n) = some true ∧ (d + j) % 2 = 0 := by
  by_cases hlast : d + (j + 1) < 42 * (n * r)
  · obtain ⟨u, hrun, hu, hslots⟩ := h.run_before_end hlast
    obtain ⟨hsub, hslot, -⟩ := hu.position
    rw [levelAfter_of_run hrun, hu.inv.phase hu.playing, hsub, hslot, hslots]
    by_cases heven : (d + j) % 2 = 0
    · have hwindow : (d + (j + 1)) / 42 = (d + j) / 42 := by omega
      have hodd : (d + (j + 1)) % 42 % 2 = 1 := by omega
      simp [hwindow, hodd, heven]
    · exact iff_of_false (fun h => heven (by omega)) fun h => heven h.2
  · obtain ⟨u, hrun, ⟨-, -, hout⟩, -⟩ := h.run_to_end (j := j + 1) (by omega)
    have hodd : (d + j) % 2 ≠ 0 := by omega
    simp [levelAfter_of_run hrun, hout, hodd]

/-! ### One slot (R117 to R122) -/

/-- At the start of a slot the ticks behind are those of the slots before it in this pass, of the passes still to go. -/
theorem Underway.of_slot_start (hinv : EngineInv s) (hplay : s.repeatCount ≠ 0) (hs : s.schedule = [])
    (hsub : s.curSub = 0) :
    Underway s.slotCount.toNat s.repeatCount.toNat (42 * s.curSlot.toNat) s := by
  refine ⟨hinv, hplay, hs, rfl, ?_⟩
  have hslot := hinv.slot hplay
  obtain ⟨q, hq⟩ : ∃ q, s.repeatCount.toNat = q + 1 := ⟨s.repeatCount.toNat - 1, by bv_omega⟩
  have hsub' : s.curSub.toNat = 0 := congrArg BitVec.toNat hsub
  rw [ticksLeft_eq rfl rfl hsub' (Nat.sub_eq_of_eq_add hq), hq, Nat.mul_assoc, Nat.mul_succ]
  omega

/-- The slot at the cursor ends within the passes still to go. -/
theorem Underway.slot_end_le (h : Underway n r (42 * s.curSlot.toNat) s) : s.curSlot.toNat + 1 ≤ n * r := by
  have := h.left
  have := h.inv.ticksLeft_pos h.playing
  omega

/-- Before the 42nd tick of its slot the cursor stays in it (R119). -/
theorem Underway.position_in_slot {t : State} (h : Underway n r (42 * s.curSlot.toNat + j) t)
    (hslot : s.curSlot.toNat < n) (hj : j < 42) :
    t.curSub.toNat = j ∧ t.curSlot = s.curSlot ∧ t.repeatCount.toNat = r := by
  obtain ⟨hsub, hslot', hpasses⟩ := h.position
  have hwindow : (42 * s.curSlot.toNat + j) / 42 = s.curSlot.toNat := by omega
  rw [← Nat.div_div_eq_div_mul, hwindow, Nat.div_eq_of_lt hslot] at hpasses
  rw [hwindow, Nat.mod_eq_of_lt hslot] at hslot'
  exact ⟨by omega, BitVec.eq_of_toNat_eq hslot', hpasses⟩

/-- After the 42nd tick of a slot that is not the last of all, the cursor is at the start of the next slot of the passes, and
a pass that is over is counted (R120, R121). -/
theorem Underway.run_slot (h : Underway n r (42 * s.curSlot.toNat) s) (hmore : s.curSlot.toNat + 1 < n * r) :
    ∃ t, run 42 s = .next t ∧ t.curSub = 0 ∧ t.out = .inactive ∧ t.curSlot.toNat = (s.curSlot.toNat + 1) % n ∧
      t.repeatCount.toNat + (s.curSlot.toNat + 1) / n = r := by
  obtain ⟨t, hrun, ht, -⟩ := h.run_before_end (j := 42) (by omega)
  obtain ⟨hsub, hslot, hpasses⟩ := ht.position
  rw [← Nat.mul_succ] at hsub hslot hpasses
  have hsub' : t.curSub = 0 := BitVec.eq_of_toNat_eq (hsub.trans (Nat.mul_mod_right _ _))
  rw [← Nat.div_div_eq_div_mul, Nat.mul_div_cancel_left _ (by decide)] at hpasses
  rw [Nat.mul_div_cancel_left _ (by decide)] at hslot
  exact ⟨t, hrun, hsub', ht.inv.out_of_curSub_zero hsub', hslot, hpasses⟩

end

/-- Settles O22: the slot's ticks are 42 of the passes still to go, and its end is the end of all of them exactly in the last
slot of the last pass. -/
theorem oneSlotTakesFortyTwoTicks : Obligations.OneSlotTakesFortyTwoTicks := by
  intro s bit hinv hplay hs hsub hread
  have h := Underway.of_slot_start hinv hplay hs hsub
  have hslot := hinv.slot hplay
  have hend := h.slot_end_le
  obtain ⟨-, hbit⟩ := (slotRead_eq_ok_iff _ _ _).mp hread
  refine ⟨fun j hj => ?_, fun j hj => ?_, ?_⟩
  · have hwindow : (42 * s.curSlot.toNat + j) / 42 = s.curSlot.toNat := by omega
    have heven : (42 * s.curSlot.toNat + j) % 2 = j % 2 := by omega
    rw [h.levelAfter_succ (by omega), hwindow, heven, Nat.mod_eq_of_lt hslot, hbit, Option.some_inj]
  · obtain ⟨t, hrun, ht, -⟩ := h.run_before_end (j := j) (by omega)
    obtain ⟨hsub', hslot', hrepeat⟩ := ht.position_in_slot hslot hj
    exact ⟨t, hrun, hslot', hsub', BitVec.eq_of_toNat_eq hrepeat⟩
  · obtain hmore | hlast := Nat.lt_or_eq_of_le hend
    · obtain ⟨t, hrun, hsub', hout, hslot', hpasses⟩ := h.run_slot hmore
      refine ⟨t, hrun, hsub', hout, fun hnext => ?_, fun hpass _ => ?_, fun hpass hone => ?_⟩
      · rw [Nat.mod_eq_of_lt hnext] at hslot'
        rw [Nat.div_eq_of_lt hnext] at hpasses
        exact ⟨hslot', BitVec.eq_of_toNat_eq hpasses⟩
      · rw [hpass, Nat.mod_self] at hslot'
        rw [hpass, Nat.div_self (by omega)] at hpasses
        exact ⟨BitVec.eq_of_toNat_eq hslot', by omega⟩
      · rw [hpass, hone] at hmore
        simp at hmore
    · obtain ⟨t, hrun, hdone, hslot', hsub'⟩ := h.run_to_end (j := 42) (by omega)
      have one_pass : s.repeatCount.toNat ≤ 1 :=
        Nat.le_of_mul_le_mul_left (c := s.slotCount.toNat) (by omega) (by omega)
      have last_slot : s.slotCount.toNat ≤ s.slotCount.toNat * s.repeatCount.toNat :=
        Nat.le_mul_of_pos_right _ (by bv_omega)
      exact ⟨t, hrun, hsub', hdone.2.2, fun hnext => by omega, fun _ hmore => by omega,
        fun _ _ => ⟨BitVec.eq_of_toNat_eq hslot', hdone⟩⟩

/-! ### The program of an accepted ARM (R105, R124) -/

/-- An accepted ARM on an idle engine puts `r` passes over the `n` slots under way, none of their ticks behind it. -/
theorem underway_of_exec_arm {s t : State} {image : SlotImage} {n r : Nat} (hinv : EngineInv s) (hidle : s.repeatCount = 0)
    (hs : s.schedule = []) (hnr : acceptable n r) (hexec : exec (.arm image n r) s = .next t) :
    Underway n r 0 t ∧ ∀ k, k < 256 → slotLookup t.slots k = some (image.getLsbD k) := by
  obtain ⟨u, hu, -, hread, -, hcount, hslot, hsub, hrepeat, -, hplay, -, -, hschedule, -⟩ :=
    acceptedArmLoadsAndStarts s image n r hidle hnr
  cases hexec.symm.trans hu
  have hstart := Underway.of_slot_start (hinv.after_hostIssued rfl hexec) ((idle_eq_false_iff _).mp hplay)
    (hschedule.trans hs) hsub
  rw [hcount, hrepeat, hslot] at hstart
  exact ⟨hstart, fun k hk => ((slotRead_eq_ok_iff _ _ _).mp (hread k hk)).2⟩

/-- Settles O25: the armed program is under way from its first tick, and its slots are the image's bits. -/
theorem armedProgramGivesTheWaveform : Obligations.ArmedProgramGivesTheWaveform := by
  intro s t image n r j hinv hidle hs hnr hexec hj
  obtain ⟨h, hlookup⟩ := underway_of_exec_arm hinv hidle hs hnr hexec
  have hslot : j / 42 % n < 256 := (Nat.mod_lt _ hnr.1).trans_le hnr.2.1
  rw [Nat.mul_assoc] at hj
  rw [h.levelAfter_succ (by omega), Nat.zero_add, hlookup _ hslot, Option.some_inj]

/-! ### Counting over runs of equal length -/

/-- Where each of `n` runs of `w` consecutive indices holds `c` of a kind or, as `q` says, none, all of them hold `c` for
each run that `q` picks. -/
theorem countP_range_mul {p q : Nat → Bool} {w n c : Nat}
    (h : ∀ i, i < n → ((List.range w).countP fun j => p (w * i + j)) = if q i then c else 0) :
    (List.range (w * n)).countP p = c * (List.range n).countP q := by
  induction n with
  | zero => rfl
  | succ n ih =>
    have hlast := h n (Nat.lt_succ_self n)
    rw [Nat.mul_succ, List.range_add, List.countP_append, ih fun i hi => h i (hi.trans (Nat.lt_succ_self n)),
      List.countP_map, List.range_succ, List.countP_append, Nat.mul_add]
    simp only [Function.comp_def, hlast, List.countP_singleton, mul_ite, Nat.mul_one, Nat.mul_zero]

/-! ### The slot advances (R120, R124) -/

/-- The sub-tick counts the ticks mod 42, at the end of the transmission too. -/
theorem Underway.exists_run_curSub {n r d j : Nat} {s : State} (h : Underway n r d s) (hj : d + j ≤ 42 * (n * r)) :
    ∃ u, run j s = .next u ∧ u.curSub.toNat = (d + j) % 42 := by
  obtain hlt | hend := Nat.lt_or_eq_of_le hj
  · obtain ⟨u, hrun, hu, -⟩ := h.run_before_end hlt
    exact ⟨u, hrun, hu.position.1⟩
  · obtain ⟨u, hrun, -, -, hsub⟩ := h.run_to_end hend
    exact ⟨u, hrun, by rw [hsub, hend, Nat.mul_mod_right]; rfl⟩

/-- CUR_SUB wraps on the 42nd tick of a slot and on no other. -/
theorem Underway.endsWindow_eq {n r d j : Nat} {s : State} (h : Underway n r d s) (hj : d + j < 42 * (n * r)) :
    endsWindow j s = decide ((d + j) % 42 = 41) := by
  obtain ⟨u, hrun, hsub⟩ := h.exists_run_curSub hj.le
  obtain ⟨v, hrun', hsub'⟩ := h.exists_run_curSub (j := j + 1) hj
  simp only [endsWindow, hrun, hrun', hsub, hsub', decide_eq_decide]
  omega

/-- A transmission from its first tick has a slot advance for each slot of each pass. -/
theorem Underway.slotAdvances_eq {n r : Nat} {s : State} (h : Underway n r 0 s) :
    slotAdvances (42 * (n * r)) s = n * r := by
  have one_a_slot : ∀ i, i < n * r →
      ((List.range 42).countP fun j => endsWindow (42 * i + j) s) = if true then 1 else 0 := by
    intro i hi
    have hcongr : ∀ j ∈ List.range 42, endsWindow (42 * i + j) s = true ↔ decide (j = 41) = true := fun j hj => by
      have hj := List.mem_range.mp hj
      rw [h.endsWindow_eq (by omega), decide_eq_true_iff, decide_eq_true_iff]
      omega
    rw [List.countP_congr hcongr]
    decide
  rw [slotAdvances, countP_range_mul one_a_slot, List.countP_true, List.length_range, Nat.one_mul]

/-- Settles O24: the armed program is under way from its first tick, so its end, its position after each tick and its slot
advances are those of a transmission with no tick behind it. -/
theorem armedProgramPlaysItsTicksThenIsIdle : Obligations.ArmedProgramPlaysItsTicksThenIsIdle := by
  intro s t image n r hinv hidle hs hnr hexec
  obtain ⟨h, -⟩ := underway_of_exec_arm hinv hidle hs hnr hexec
  rw [Nat.mul_assoc, h.slotAdvances_eq, Nat.mul_comm r]
  refine ⟨h.run_to_end (Nat.zero_add _), fun j hj => ?_, rfl⟩
  obtain ⟨u, hrun, hu, -⟩ := h.run_before_end (j := j) (by omega)
  obtain ⟨hsub, hslot, hpasses⟩ := hu.position
  rw [Nat.zero_add] at hsub hslot hpasses
  exact ⟨u, hrun, hu.playing, hpasses, hslot, hsub⟩

/-! ### The active ticks (R125) -/

/-- The even indices of 42 are 21, where the slot is a mark. -/
theorem countP_even_of_mark (mark : Bool) :
    ((List.range 42).countP fun j => mark && decide (j % 2 = 0)) = if mark then 21 else 0 := by
  cases mark <;> decide

/-- A waveform of `r` passes over `n` slots is active on 21 ticks for each mark of each pass. -/
theorem countP_waveform (isMark : Nat → Bool) (n r : Nat) :
    ((List.range (42 * n * r)).countP fun j => isMark (j / 42 % n) && decide (j % 2 = 0)) =
      21 * r * (List.range n).countP isMark := by
  have one_pass : ∀ i, i < r → ((List.range (42 * n)).countP fun j =>
      isMark ((42 * n * i + j) / 42 % n) && decide ((42 * n * i + j) % 2 = 0)) =
      if true then 21 * (List.range n).countP isMark else 0 := by
    intro i _
    rw [if_pos rfl]
    refine countP_range_mul fun k hk => ?_
    rw [← countP_even_of_mark]
    refine List.countP_congr fun j hj => ?_
    have hj := List.mem_range.mp hj
    have hwindow : (42 * n * i + (42 * k + j)) / 42 = n * i + k := by rw [Nat.mul_assoc]; omega
    have heven : (42 * n * i + (42 * k + j)) % 2 = j % 2 := by rw [Nat.mul_assoc]; omega
    rw [hwindow, heven, Nat.mul_add_mod, Nat.mod_eq_of_lt hk]
  rw [countP_range_mul one_pass, List.countP_true, List.length_range]
  ring

/-- Settles O26: the ticks of the waveform, counted pass by pass and slot by slot. -/
theorem activeTicksAreTwentyOnePerMark : Obligations.ActiveTicksAreTwentyOnePerMark := by
  intro s t image n r hinv hidle hs hnr hexec
  rw [← countP_waveform]
  refine List.countP_congr fun j hj => ?_
  rw [beq_iff_eq, armedProgramGivesTheWaveform s t image n r j hinv hidle hs hnr hexec (List.mem_range.mp hj),
    Bool.and_eq_true, decide_eq_true_iff]

end Sys2Proof.Machine
end

section
/-! PROOFS. The statements on the public operations (45_public_operations.md): both are the ARM of the packet's built frame,
ENCODE_AND_SEND being the other one with the encoded packet and two passes; what the ARM accepts and refuses, and the run it
starts. -/

namespace Sys2Proof.Machine

/-! ### The public operations as an ARM of the built frame (R73, R130, R131) -/

/-- ENCODE_AND_SEND is SEND_FIXED_COMMAND of the encoded packet with `DEFAULT_REPEAT` (R130, R131). -/
theorem exec_encodeAndSend_eq_sendFixedCommand (st : ACState) (s : State) :
    exec (.encodeAndSend st) s = exec (.sendFixedCommand (encodePacket st) 2) s := rfl

/-- A packet's frame has 24 one bits, so its program has 169 slots (R73, R91, R96). -/
theorem length_frameSlots_framePacket (p : ProtocolPacket) : (frameSlots (framePacket p)).length = 169 := by
  rw [length_frameSlots, frameOnes_eq, framePopcount_framePacket]

/-- Whatever the repeat count is, a send is the ARM of a buffer that holds the 169 slots of the packet's frame (R131,
D21). -/
theorem exists_exec_send_eq_arm (p : ProtocolPacket) (s : State) :
    ∃ b : SlotBuffer, b.count = 169 ∧ (∀ k, k < 169 → b.bits.getLsbD k = (frameSlots (framePacket p)).getD k false) ∧
      ∀ r, exec (.sendFixedCommand p r) s = exec (.arm b.bits 169 r) (setBuffer b s) := by
  obtain ⟨-, hcount, hbits⟩ := buildFrame_ok Config.slotCapacity (by decide) (by decide) (framePacket p) s.buffer
  rw [length_frameSlots_framePacket] at hcount hbits
  refine ⟨_, hcount, fun k hk => (hbits k).trans (if_pos hk), fun r => ?_⟩
  rw [exec_sendFixedCommand, execSendFixedCommand, sendPacket_eq, hcount, exec_arm, execArm]

/-- Accepted or refused, a send leaves in the host's buffer a program that DecodeSlots reads as the packet's frame (R99,
D21). -/
theorem decodeSlots_buffer_of_exec_send {p : ProtocolPacket} {r : Nat} {s t : State}
    (hexec : exec (.sendFixedCommand p r) s = .next t) :
    decodeSlots t.buffer.bits t.buffer.count = some (framePacket p) := by
  obtain rfl : sendPacket p r s = t := Host.Outcome.next.inj hexec
  rw [sendPacket_buffer, decodeSlots, programSlots_buildFrame, decodeProgram_frameSlots]

/-! ### What the operations return (R130, R131) -/

/-- Settles O52: the send is an ARM of 169 slots, which fit, so only the engine and the repeat decide. -/
theorem sendFixedCommandArmsTheGivenRepeat : Obligations.SendFixedCommandArmsTheGivenRepeat := by
  intro p r s
  obtain ⟨b, -, hbits, hsend⟩ := exists_exec_send_eq_arm p s
  have same (st : Status) : SameBlock s (returnStatus st (setBuffer b s)) :=
    (sameBlock_setBuffer b s).trans (sameBlock_returnStatus st _)
  rw [hsend r]
  refine ⟨fun hidle hr hr' => ?_, fun hidle hbad => ?_, fun hbusy => ?_⟩
  · obtain ⟨t, hexec, hok, hread, -, hcount, hslot, hsub, hrepeat, hrun, -, hout, -, hschedule, hstrap⟩ :=
      acceptedArmLoadsAndStarts (setBuffer b s) b.bits 169 r hidle ⟨by decide, by decide, hr, hr'⟩
    exact ⟨t, hexec, hok, BitVec.eq_of_toNat_eq hcount, hrepeat, hslot, hsub, hrun, hout, hschedule, hstrap,
      fun k hk => (hread k (by omega)).trans (congrArg _ (hbits k hk))⟩
  · obtain ⟨-, -, hrepeat⟩ := armRejectsBadOperandsInOrder (setBuffer b s) b.bits 169 r hidle
    exact ⟨_, hrepeat (by decide) (by decide) hbad, rfl, same .invalidArgument, rfl, rfl⟩
  · exact ⟨_, armWhileBusyChangesNothing (setBuffer b s) b.bits 169 r hbusy, rfl, same .engineBusy, rfl, rfl⟩

/-- Settles O51: the send of the encoded packet with a repeat in range, and its buffer read back. -/
theorem encodeAndSendArmsTwoPasses : Obligations.EncodeAndSendArmsTwoPasses := by
  intro st s
  obtain ⟨accepted, -, busy⟩ := sendFixedCommandArmsTheGivenRepeat (encodePacket st) 2 s
  rw [exec_encodeAndSend_eq_sendFixedCommand]
  refine ⟨fun hidle => ?_, busy⟩
  obtain ⟨t, hexec, hok, hcount, hrepeat, hslot, hsub, hrun, hout, hschedule, hstrap, hread⟩ :=
    accepted hidle (by decide) (by decide)
  exact ⟨t, hexec, hok, hcount, BitVec.eq_of_toNat_eq hrepeat, hslot, hsub, hrun, hout, hschedule, hstrap, hread,
    decodeSlots_buffer_of_exec_send hexec⟩

/-! ### The transmission of an accepted send (R124, R125, R130) -/

/-- Settles O54: the send is an ARM from a state that meets the invariant, so the transmission is that of the armed program:
two passes over 169 slots of 42 ticks, with the slots of the packet's frame for its waveform. -/
theorem encodeAndSendPlaysTheFrameTwice : Obligations.EncodeAndSendPlaysTheFrameTwice := by
  intro st s t hinv hidle hs hexec
  obtain ⟨b, hcount, hbits, hsend⟩ := exists_exec_send_eq_arm (encodePacket st) s
  rw [exec_encodeAndSend_eq_sendFixedCommand, hsend] at hexec
  have hinv' : EngineInv (setBuffer b s) :=
    hinv.of_sameBlock (sameBlock_setBuffer b s) rfl (hcount.trans_le (by decide))
  have hnr : acceptable 169 2 := ⟨by decide, by decide, by decide, by decide⟩
  obtain ⟨⟨u, hrun, hend, -⟩, hplays, -⟩ :=
    armedProgramPlaysItsTicksThenIsIdle (setBuffer b s) t b.bits 169 2 hinv' hidle hs hnr hexec
  refine ⟨⟨u, hrun, hend⟩, fun j hj => ⟨?_, ?_⟩⟩
  · obtain ⟨v, hrun', hplay, -⟩ := hplays j hj
    exact ⟨v, hrun', hplay⟩
  · rw [armedProgramGivesTheWaveform (setBuffer b s) t b.bits 169 2 j hinv' hidle hs hnr hexec hj,
      hbits _ (Nat.mod_lt _ (by decide))]

end Sys2Proof.Machine
end

section
/-! PROOFS. The statements on exceptions (60_exceptions.md): what a host operation that returns an error leaves, the status
that no operation returns, two ARMs in a row, and a host operation together with the completing tick, in both orders. -/

namespace Sys2Proof.Machine

/-! ### A host operation that returns an error (R136, R141) -/

/-- Settles O33: of the three effects a HOST instruction can have, those that write the block return Ok. -/
theorem failedHostOperationsChangeNoBlockState : Obligations.FailedHostOperationsChangeNoBlockState := by
  intro i s hi
  obtain ⟨t, hexec, heffect, -, -⟩ := exec_hostIssued hi s
  refine ⟨t, hexec, fun st hst hfail => ?_⟩
  have not_ok : t.result ≠ .status .ok := fun hok => hfail (Result.status.inj (hst.symm.trans hok))
  cases heffect with
  | nothing same => exact same
  | loads _ _ _ _ _ _ hok _ => exact absurd hok not_ok
  | stops _ _ state => exact absurd (congrArg State.result state) not_ok

/-! ### The status that is never returned (R139, D20) -/

/-- A run of slots is emitted whole, or `CapacityExceeded` ends it (R95, R97). -/
theorem emitAll_status (capacity : Nat) (vs : List Bool) (b : SlotBuffer) :
    (emitAll capacity vs b).2 = .ok ∨ (emitAll capacity vs b).2 = .capacityExceeded := by
  induction vs generalizing b with
  | nil => exact .inl rfl
  | cons v vs ih =>
    rw [emitAll]
    split
    · exact .inr rfl
    · exact ih _

/-- A pulse symbol leaves the result as it was or returns `CapacityExceeded` (log 8). -/
theorem emitSymbol_result (vs : List Bool) (s : State) :
    (emitSymbol vs s).result = s.result ∨ (emitSymbol vs s).result = .status .capacityExceeded := by
  obtain ⟨-, h⟩ | ⟨hfail, h⟩ := emitSymbol_cases vs s <;> rw [h]
  · exact .inl rfl
  · exact .inr (congrArg Result.status ((emitAll_status _ vs s.buffer).resolve_left hfail))

/-- None of ARM's checks gives `InvalidState` (R106, R107). -/
theorem armCheck_ne_invalidState (s : State) (n r : Nat) : armCheck s n r ≠ some .invalidState := by
  rw [armCheck]
  split_ifs <;> simp

theorem armEngine_result_ne_invalidState (image : SlotImage) (n r : Nat) (s : State) :
    (armEngine image n r s).result ≠ .status .invalidState := by
  obtain ⟨-, -, -, -, -, h⟩ | ⟨st, -, hcheck, h⟩ := armEngine_cases image n r s <;> rw [h]
  · simp
  · rw [returnStatus_result]
    rintro ⟨⟩
    exact armCheck_ne_invalidState s n r hcheck

/-- A HOST instruction returns something other than `InvalidState`, or leaves the result as it was. -/
theorem exec_result_ne_invalidState {i : Instr} (hi : i.hostIssued = true) {s t : State} (hexec : exec i s = .next t) :
    t.result = s.result ∨ t.result ≠ .status .invalidState := by
  have emits (vs : List Bool) : (emitSymbol vs s).result = s.result ∨
      (emitSymbol vs s).result ≠ .status .invalidState :=
    (emitSymbol_result vs s).imp_right fun h => by simp [h]
  have sends (p : ProtocolPacket) (r : Nat) : (sendPacket p r s).result ≠ .status .invalidState := by
    rw [sendPacket_eq]; exact armEngine_result_ne_invalidState _ _ _ _
  cases i with
  | mark => cases hi
  | space => cases hi
  | tick => cases hi
  | isIdle => cases hexec; exact .inr (by simp)
  | arm image n r => cases hexec; exact .inr (armEngine_result_ne_invalidState image n r s)
  | stop => cases hexec; right; split <;> simp [stopEngine]
  | start => cases hexec; exact emits _
  | bit0 => cases hexec; exact emits _
  | bit1 => cases hexec; exact emits _
  | stopmark => cases hexec; exact emits _
  | byte b => cases hexec; exact emits _
  | encode st => cases hexec; exact .inr (by simp)
  | frame p => cases hexec; exact .inr (by simp)
  | build f =>
    rw [exec_build, execBuild_eq] at hexec
    cases hexec
    exact .inr (by simp)
  | encodeAndSend st => cases hexec; exact .inr (sends _ _)
  | sendFixedCommand p r => cases hexec; exact .inr (sends p r)

/-- Settles O55: what is not returned was there before. -/
theorem invalidStateIsNeverReturned : Obligations.InvalidStateIsNeverReturned := by
  intro i s t hi hexec hinvalid
  obtain hkeep | hne := exec_result_ne_invalidState hi hexec
  · exact hkeep.symm.trans hinvalid
  · exact absurd hinvalid hne

/-! ### Two ARMs in a row (R151) -/

/-- Settles O37: the accepted ARM ends Idle, so the engine is busy for the other. -/
theorem secondOfTwoArmsIsRefused : Obligations.SecondOfTwoArmsIsRefused := by
  intro s t image image' n r n' r' hidle hnr hexec
  obtain ⟨u, hu, hok, -, -, -, -, -, -, -, hbusy, -⟩ := acceptedArmLoadsAndStarts s image n r hidle hnr
  obtain rfl : u = t := Host.Outcome.next.inj (hu.symm.trans hexec)
  exact ⟨hok, armWhileBusyChangesNothing u image' n' r' ((idle_eq_false_iff u).mp hbusy)⟩

/-! ### A host operation and the completing tick (R144, D25) -/

/-- The state after the TICK that completes the transmission (R122, D13). -/
def completed (s : State) : State :=
  { s with out := .inactive, timerRun := false, curSub := 0, curSlot := s.slotCount, repeatCount := 0 }

/-- The next TICK is the one that completes the transmission. -/
structure AtCompletingTick (s : State) : Prop where
  inv : EngineInv s
  repeatCount : s.repeatCount = 1
  curSub : s.curSub = 41
  curSlot : s.curSlot + 1 = s.slotCount

theorem AtCompletingTick.repeatCount_ne_zero {s : State} (h : AtCompletingTick s) : s.repeatCount ≠ 0 := by
  rw [h.repeatCount]; decide

/-- Whether the next TICK completes depends on the block, whatever the turns to come and the last result are. -/
theorem AtCompletingTick.with_turns_result {s : State} (h : AtCompletingTick s) (turns : List Turn) (result : Result) :
    AtCompletingTick { s with schedule := turns, result := result } :=
  ⟨h.inv.of_sameBlock ⟨rfl, rfl, rfl, rfl, rfl, rfl, rfl⟩ rfl h.inv.bufferCount, h.repeatCount, h.curSub, h.curSlot⟩

/-- TICK there gives the completed state: the invariant has its slot written and CUR_SLOT in range. -/
theorem AtCompletingTick.exec_tick {s : State} (h : AtCompletingTick s) : exec .tick s = .next (completed s) := by
  obtain ⟨bit, hread⟩ := h.inv.exists_slotRead h.repeatCount_ne_zero
  have hone : s.repeatCount.toNat = 1 := congrArg BitVec.toNat h.repeatCount
  have hsub : s.curSub.toNat = 41 := congrArg BitVec.toNat h.curSub
  have hslot : s.curSlot.toNat + 1 = s.slotCount.toNat := by
    have := h.inv.slot h.repeatCount_ne_zero
    have := h.curSlot
    bv_omega
  exact lastTickCompletesTheTransmission s bit hone hread hsub hslot

/-- A tick turn there makes that TICK, the timer running (R33 (a), R142). -/
theorem AtCompletingTick.step_tick {s : State} (h : AtCompletingTick s) {rest : List Turn}
    (hs : s.schedule = .tick :: rest) : step s = .next (completed { s with schedule := rest }) := by
  rw [step_of_turn_runs hs (tickAction_running (h.inv.timer.mpr h.repeatCount_ne_zero))]
  exact (h.with_turns_result rest s.result).exec_tick

/-- A call turn makes the instruction's meaning the step. -/
theorem step_call {s t : State} {i : Instr} {rest : List Turn} (hs : s.schedule = .call i :: rest)
    (hi : i.hostIssued = true) (hexec : exec i { s with schedule := rest } = .next t) : step s = .next t :=
  (step_of_turn_runs hs (turnAction_call_of_host hi _)).trans hexec

theorem run_one_of_step {s t : State} (h : step s = .next t) : run 1 s = .next t := run_succ_of_step h 0

theorem run_two_of_steps {s t u : State} (h : step s = .next t) (h' : step t = .next u) : run 2 s = .next u :=
  (run_succ_of_step h 1).trans (run_one_of_step h')

/-- ARM before the completing tick: refused as busy, then the transmission completes (R144 (b)). -/
theorem AtCompletingTick.run_arm_tick {s : State} (h : AtCompletingTick s) (image : SlotImage) (n r : Nat) :
    run 2 { s with schedule := [.call (.arm image n r), .tick] } =
      .next (completed { s with schedule := [], result := .status .engineBusy }) :=
  run_two_of_steps (step_call rfl rfl (armWhileBusyChangesNothing _ image n r h.repeatCount_ne_zero))
    ((h.with_turns_result [.tick] _).step_tick rfl)

/-- The completing tick before a host operation: the operation runs in the completed state (R144 (b), (d)). -/
theorem AtCompletingTick.run_tick_call {s t : State} (h : AtCompletingTick s) {i : Instr} (hi : i.hostIssued = true)
    (hexec : exec i (completed { s with schedule := [] }) = .next t) :
    run 2 { s with schedule := [.tick, .call i] } = .next t :=
  run_two_of_steps ((h.with_turns_result _ s.result).step_tick rfl) (step_call rfl hi hexec)

/-- STOP before a tick: the tick turn finds the timer stopped (R143, R144 (d)). -/
theorem run_stop_tick {s : State} (hstop : s.hasStop = true) :
    run 2 { s with schedule := [.call .stop, .tick] } = .next (stopEngine { s with schedule := [] }) :=
  run_two_of_steps (step_call rfl rfl (execStop_with_strap hstop)) (step_of_turn_settles rfl (tickAction_stopped rfl))

/-- Settles O38: with ARM the order decides whether it finds the engine busy or completed; with STOP it decides the cursors
alone, and in the completed state STOP has nothing to undo. -/
theorem hostOperationMeetsTheCompletingTick : Obligations.HostOperationMeetsTheCompletingTick := by
  intro s image n r hinv hnr hrepeat hsub hslot
  have h : AtCompletingTick s := ⟨hinv, hrepeat, hsub, hslot⟩
  refine ⟨?_, fun hstop => ?_⟩
  · obtain ⟨b, hexec, hok, -, -, hcount, -, -, hpasses, -⟩ :=
      acceptedArmLoadsAndStarts (completed { s with schedule := [] }) image n r rfl hnr
    exact ⟨_, b, h.run_arm_tick image n r, rfl, ⟨rfl, rfl, rfl⟩, h.run_tick_call rfl hexec, hok, hpasses, hcount⟩
  · have hafter := h.run_tick_call (i := .stop) rfl (execStop_with_strap hstop)
    have htick := run_one_of_step ((h.with_turns_result [.tick, .call .stop] s.result).step_tick rfl)
    exact ⟨_, _, _, run_stop_tick hstop, hafter, htick, ⟨rfl, rfl, rfl⟩, ⟨rfl, rfl, rfl⟩, rfl,
      ⟨rfl, rfl, rfl, rfl, rfl, rfl, rfl⟩⟩

end Sys2Proof.Machine
end
